-- ==== Sys2Proof/Word.lean ====
section
/-! DEFINITION. The word types of the block (00_scope.md R17, R18) and nothing more. -/

namespace Sys2Proof

/-- `u8` of 00_scope.md R17: payload length, payload bytes, message bytes, fault codes (20_memory.md R66). -/
abbrev Byte := BitVec 8

/-- `u16` of 00_scope.md R17: the checksum field and the words CHK.SUM adds (20_memory.md R66). -/
abbrev Half := BitVec 16

/-- `u32` of 00_scope.md R17: sequence and acknowledgment numbers, sizes and offsets (20_memory.md R66). -/
abbrev Word := BitVec 32

/-- A frame as its bytes, offset 0 first (00_scope.md R18). That it has exactly `FRAME_SIZE` bytes
(70_reset_and_hazards.md R304) is checked where one enters the block (WellFormed.lean). -/
abbrev Frame := List Byte

/-- The reserved sequence number, and the acknowledgment number that means "none yet"
(30_encoding.md R93, R107). -/
abbrev noneYet : Word := 0xFFFFFFFF#32

end Sys2Proof
end

