-- ==== Sys2Proof/Machine/Bytes.lean ====
section
/-! DEFINITION. Bytes in buffers and the little-endian byte order (00_scope.md R18, 20_memory.md R61). -/

namespace Sys2Proof

/-- The byte at an offset of a buffer. Every access a rule makes is inside its buffer (44_common_semantics.md
R232); beyond it this reads 0, which only states outside the invariants can meet (log 13). -/
def byteAt (buf : List Byte) (off : Nat) : Byte := buf.getD off 0

/-- `MemRead(buf, off, n)`: the sum of `buf[off+k] * 2^(8k)` for `k < n` (00_scope.md R18). -/
def memRead (buf : List Byte) (off : Nat) : Nat → Nat
  | 0 => 0
  | n + 1 => (byteAt buf off).toNat + 2 ^ 8 * memRead buf (off + 1) n

/-- `MemWrite(buf, off, n, v)`: `buf[off+k] <- v[8k+7:8k]` for `k < n` (00_scope.md R18). -/
def memWrite (buf : List Byte) (off : Nat) : Nat → Nat → List Byte
  | 0, _ => buf
  | n + 1, v => memWrite (buf.set off (BitVec.ofNat 8 v)) (off + 1) n (v / 2 ^ 8)

/-- The `n` bytes `v[7:0], v[15:8], …` (00_scope.md R18; `PUT32` of 42_sender.md R176 for `n = 4`). -/
def leBytes : Nat → Nat → List Byte
  | 0, _ => []
  | n + 1, v => BitVec.ofNat 8 v :: leBytes n (v / 2 ^ 8)

/-- `LE16(F, o)` (00_scope.md R18). -/
def le16 (buf : List Byte) (off : Nat) : Nat := memRead buf off 2

/-- `LE32(F, o)` (00_scope.md R18) as the 32-bit value it is. -/
def le32 (buf : List Byte) (off : Nat) : Word := BitVec.ofNat 32 (memRead buf off 4)

/-- `PUT32(v)`: the 4 bytes of a word, least significant first (42_sender.md R176). -/
def put32 (v : Word) : List Byte := leBytes 4 v.toNat

end Sys2Proof
end

