-- ==== Sys2Proof/Config.lean ====
section
/-! DEFINITION. The build parameters (00_scope.md R8 to R15), their constraints, the derived constants
of R9, and the free values: what the spec calls unspecified and a machine still holds. -/

namespace Sys2Proof

/-- The parameters of one build (00_scope.md R8 to R15, 92_eei_decisions.md section 1). They are fixed
when the block is built and no operation changes one (10_state.md R45). -/
structure Config where
  /-- `FRAME_SIZE`, bytes in a frame (R8). -/
  frameSize : Nat
  /-- `W`, capacity of both windows (R10). -/
  window : Nat
  /-- `B`, capacity of the pending-message queue (R11). -/
  queueCap : Nat
  /-- `TIMEOUT`, opaque: it only labels the `StartTimer` action (R12). -/
  timeout : Nat
  /-- `MSG_MAX`, the longest message the stores hold (R13). -/
  msgMax : Nat
  /-- `ACK_ON_BUFFER`; this hardware takes 1 (R14). -/
  ackOnBuffer : Bool
  /-- `PAD`; this hardware takes `0x00` (R15). -/
  pad : Byte
  deriving DecidableEq, Repr

namespace Config

/-- The constraints of 00_scope.md R8, R10, R11, R13. -/
def legal (c : Config) : Bool :=
  c.frameSize % 2 == 0 && decide (12 ≤ c.frameSize) && decide (c.frameSize ≤ 262) &&
  decide (1 ≤ c.window) && decide (c.window ≤ 2 ^ 31) &&
  decide (1 ≤ c.queueCap) && decide (c.queueCap < 2 ^ 32) &&
  decide (c.msgMax ≤ 2 ^ 32 - 1)

/-- `MAXP = FRAME_SIZE - 7` (00_scope.md R9). -/
def maxPayload (c : Config) : Nat := c.frameSize - 7

/-- `NWORDS = FRAME_SIZE/2 - 1` (00_scope.md R9). -/
def nWords (c : Config) : Nat := c.frameSize / 2 - 1

/-- The build State.reset carries. DESIGN CHOICE (log 1): the parameters of 95_test_vectors.md section 1,
with `ACK_ON_BUFFER = 1`, `PAD = 0x00` and `MSG_MAX = 2^32 - 1` as 00_scope.md R13 to R15 give them for
this hardware; `TIMEOUT` has no value in the spec and is 0. No statement rests on these numbers. -/
def standard : Config where
  frameSize := 16
  window := 5
  queueCap := 4
  timeout := 0
  msgMax := 2 ^ 32 - 1
  ackOnBuffer := true
  pad := 0x00

/-! Free values: constants with no body, so that nothing proved can depend on what they are. Each is
indexed by a counter of State, `sndFree` or `rcvFree` (log 8, log 9). -/

/-- A 32-bit register of SND that the spec leaves unspecified (10_state.md R55, U8, U10). -/
opaque freeSndWord : Nat → Word

/-- A 32-bit register of RCV that the spec leaves unspecified (10_state.md R55, U8, U10). -/
opaque freeRcvWord : Nat → Word

/-- A counter as wide as a parameter needs that the spec leaves unspecified (U8, U10). -/
opaque freeCount : Nat → Nat

/-- A flag that the spec leaves unspecified (U8). -/
opaque freeBit : Nat → Bool

/-- The contents of `asm_buf` after the reset input (U8): address and byte pairs. -/
opaque freeBytes : Nat → List (Nat × Byte)

/-- The contents of `win` after the reset input (U8): slot and frame pairs. -/
opaque freeSndFrames : Nat → List (Nat × Frame)

/-- The contents of `rwin` after the reset input (U8): slot and frame pairs. -/
opaque freeRcvFrames : Nat → List (Nat × Frame)

/-- A byte of the payload area of a frame FRM.DATA builds from operands for which 41_framer.md R151 states no
byte there (log 19): a function of the build, the operands and the place in the area, since FRM holds no state. -/
opaque freePayloadByte : Config → Word → Byte → List Byte → Nat → Byte

/-- The contents of the queue after the reset input (U8): message number and message pairs. -/
opaque freeQueue : Nat → List (Word × List Byte)

end Config

end Sys2Proof
end

