-- ==== Sys2Proof/Syntax.lean ====
section
/-! DEFINITION. The operation set (00_scope.md R4, 30_encoding.md R102, R105): one constructor per row of
opcode_table.json, and the command that carries one across the block's boundary. -/

namespace Sys2Proof

/-- The 14 operations with their operands (30_encoding.md R105). -/
inductive Instr where
  /-- `CHK.SUM(F) -> u16` (40_checksum.md R131). -/
  | chkSum (f : Frame)
  /-- `CHK.VALIDATE(F) -> bit` (40_checksum.md R134). -/
  | chkValidate (f : Frame)
  /-- `CHK.STAMP(F) -> F'` (40_checksum.md R136). -/
  | chkStamp (f : Frame)
  /-- `FRM.DATA(seq, plen, payload) -> F` (41_framer.md R151). -/
  | frmData (seq : Word) (plen : Byte) (payload : List Byte)
  /-- `FRM.ACK(ack) -> F` (41_framer.md R153). -/
  | frmAck (ack : Word)
  /-- `FRM.PARSE(F) -> (chk, seq, plen, payload)` (41_framer.md R155). -/
  | frmParse (f : Frame)
  /-- `SND.INIT()` (42_sender.md R171). -/
  | sndInit
  /-- `SND.MSG(len, data)` (42_sender.md R172). -/
  | sndMsg (len : Word) (data : List Byte)
  /-- `SND.ACKF(F)` (42_sender.md R173). -/
  | sndAckf (f : Frame)
  /-- `SND.TIMEOUT()` (42_sender.md R174). -/
  | sndTimeout
  /-- `SND.FINAL()` (42_sender.md R175). -/
  | sndFinal
  /-- `RCV.INIT()` (43_receiver.md R211). -/
  | rcvInit
  /-- `RCV.FRAME(F)` (43_receiver.md R212). -/
  | rcvFrame (f : Frame)
  /-- `RCV.FINAL()` (43_receiver.md R213). -/
  | rcvFinal
  deriving DecidableEq, Repr

/-- The operation a command code selects, without its operands (the rows of 30_encoding.md R105). -/
inductive Op where
  | chkSum | chkValidate | chkStamp
  | frmData | frmAck | frmParse
  | sndInit | sndMsg | sndAckf | sndTimeout | sndFinal
  | rcvInit | rcvFrame | rcvFinal
  deriving DecidableEq, Repr

/-- A command at the block's boundary: the 5-bit code, and the operand bytes that "travel beside it"
(30_encoding.md R105). -/
structure Command where
  /-- `op[4:0]`. -/
  op : BitVec 5
  /-- The operands as bytes; the layout is Decode.lean's (log 5). -/
  operand : List Byte
  deriving DecidableEq, Repr

end Sys2Proof
end

