-- ==== Sys2Proof/WellFormed.lean ====
section
/-! DEFINITION. Which operands an operation takes, for a given build. -/

namespace Sys2Proof

/-- A frame operand has exactly `FRAME_SIZE` bytes (30_encoding.md R102, 70_reset_and_hazards.md R304). -/
def Frame.whole (c : Config) (f : Frame) : Bool := f.length == c.frameSize

/-- The operand types of 30_encoding.md R100, R102 and R105: a frame has `FRAME_SIZE` bytes, a message's `data`
exactly `len` bytes (a length above `MSG_MAX` is well formed and raises `MsgTooLong`, 42_sender.md R172). What
41_framer.md R151 calls preconditions of FRM.DATA excludes no operand (log 19). -/
def Instr.wf (c : Config) : Instr → Bool
  | .chkSum f => f.whole c
  | .chkValidate f => f.whole c
  | .chkStamp f => f.whole c
  | .frmData _ _ _ => true
  | .frmAck _ => true
  | .frmParse f => f.whole c
  | .sndInit => true
  | .sndMsg len data => data.length == len.toNat
  | .sndAckf f => f.whole c
  | .sndTimeout => true
  | .sndFinal => true
  | .rcvInit => true
  | .rcvFrame f => f.whole c
  | .rcvFinal => true

end Sys2Proof
end

