-- ==== Sys2Proof/Decode.lean ====
section
/-! DEFINITION. Command codes to operations and back (30_encoding.md R105, R106): the decoder, total on every
code and every operand string, and after it the encoder. -/

namespace Sys2Proof

/-- Why a command selects no operation. -/
inductive DecodeError where
  /-- A 5-bit code outside the table (30_encoding.md R106). -/
  | reservedCode
  /-- The operand bytes are not an operand of the operation: too few or too many of them for its type
  (30_encoding.md R100, R102, 93_implementation_defined.md U19). -/
  | operandShape
  deriving DecidableEq, Repr

/-- `op[4:3]`, the unit: 0 CHK, 1 FRM, 2 SND, 3 RCV (30_encoding.md R105). -/
def unitField (op : BitVec 5) : BitVec 2 := op.extractLsb' 3 2

/-- `op[2:0]`, the function (30_encoding.md R105). -/
def fnField (op : BitVec 5) : BitVec 3 := op.extractLsb' 0 3

/-- The row of 30_encoding.md R105 a code selects; `none` for the reserved codes of R106. -/
def opOfCode (op : BitVec 5) : Option Op :=
  match (unitField op).toNat, (fnField op).toNat with
  | 0, 0 => some .chkSum
  | 0, 1 => some .chkValidate
  | 0, 2 => some .chkStamp
  | 1, 0 => some .frmData
  | 1, 1 => some .frmAck
  | 1, 2 => some .frmParse
  | 2, 0 => some .sndInit
  | 2, 1 => some .sndMsg
  | 2, 2 => some .sndAckf
  | 2, 3 => some .sndTimeout
  | 2, 4 => some .sndFinal
  | 3, 0 => some .rcvInit
  | 3, 2 => some .rcvFrame
  | 3, 4 => some .rcvFinal
  | _, _ => none

/-- The operand bytes of an operation read as its operands. A frame is its bytes, a `u32` its 4 bytes with
the least significant first, a payload and a message follow their lengths (log 5). -/
def instrOfOperand (op : Op) (b : List Byte) : Option Instr :=
  match op with
  | .chkSum => some (.chkSum b)
  | .chkValidate => some (.chkValidate b)
  | .chkStamp => some (.chkStamp b)
  | .frmData => if 5 ≤ b.length then some (.frmData (le32 b 0) (byteAt b 4) (b.drop 5)) else none
  | .frmAck => if b.length = 4 then some (.frmAck (le32 b 0)) else none
  | .frmParse => some (.frmParse b)
  | .sndInit => if b = [] then some .sndInit else none
  | .sndMsg => if 4 ≤ b.length then some (.sndMsg (le32 b 0) (b.drop 4)) else none
  | .sndAckf => some (.sndAckf b)
  | .sndTimeout => if b = [] then some .sndTimeout else none
  | .sndFinal => if b = [] then some .sndFinal else none
  | .rcvInit => if b = [] then some .rcvInit else none
  | .rcvFrame => some (.rcvFrame b)
  | .rcvFinal => if b = [] then some .rcvFinal else none

/-- The decoder: the operation the code selects, with its operands checked against the build, or the
name of what is wrong. -/
def decode (c : Config) (m : Command) : Except DecodeError Instr :=
  match opOfCode m.op with
  | none => .error .reservedCode
  | some op =>
    match instrOfOperand op m.operand with
    | none => .error .operandShape
    | some i => if i.wf c then .ok i else .error .operandShape

/-- The code of each operation, from the table of 30_encoding.md R105. -/
def Op.code : Op → BitVec 5
  | .chkSum => 0b00000#5
  | .chkValidate => 0b00001#5
  | .chkStamp => 0b00010#5
  | .frmData => 0b01000#5
  | .frmAck => 0b01001#5
  | .frmParse => 0b01010#5
  | .sndInit => 0b10000#5
  | .sndMsg => 0b10001#5
  | .sndAckf => 0b10010#5
  | .sndTimeout => 0b10011#5
  | .sndFinal => 0b10100#5
  | .rcvInit => 0b11000#5
  | .rcvFrame => 0b11010#5
  | .rcvFinal => 0b11100#5

/-- The operation of an instruction. -/
def Instr.op : Instr → Op
  | .chkSum _ => .chkSum
  | .chkValidate _ => .chkValidate
  | .chkStamp _ => .chkStamp
  | .frmData _ _ _ => .frmData
  | .frmAck _ => .frmAck
  | .frmParse _ => .frmParse
  | .sndInit => .sndInit
  | .sndMsg _ _ => .sndMsg
  | .sndAckf _ => .sndAckf
  | .sndTimeout => .sndTimeout
  | .sndFinal => .sndFinal
  | .rcvInit => .rcvInit
  | .rcvFrame _ => .rcvFrame
  | .rcvFinal => .rcvFinal

/-- The operand bytes of an instruction (log 5). -/
def Instr.operand : Instr → List Byte
  | .chkSum f => f
  | .chkValidate f => f
  | .chkStamp f => f
  | .frmData seq plen payload => put32 seq ++ plen :: payload
  | .frmAck ack => put32 ack
  | .frmParse f => f
  | .sndInit => []
  | .sndMsg len data => put32 len ++ data
  | .sndAckf f => f
  | .sndTimeout => []
  | .sndFinal => []
  | .rcvInit => []
  | .rcvFrame f => f
  | .rcvFinal => []

/-- The encoder: the command of an instruction. -/
def encode (i : Instr) : Command := ⟨i.op.code, i.operand⟩

/-- How many operand bytes an operation takes when all of them are zero: a whole frame, or its fixed
fields with an empty payload or message. -/
def zeroOperandLength (c : Config) : Op → Nat
  | .chkSum | .chkValidate | .chkStamp | .frmParse | .sndAckf | .rcvFrame => c.frameSize
  | .frmData => 5
  | .frmAck | .sndMsg => 4
  | .sndInit | .sndTimeout | .sndFinal | .rcvInit | .rcvFinal => 0

/-- The command whose code is bits 4 to 0 of a table word and whose operand bytes are all zero. The table's
mask is `0x1F`: a command has no bits above bit 4. -/
def commandOfTableWord (c : Config) (w : Nat) : Command :=
  let op : BitVec 5 := BitVec.ofNat 5 w
  ⟨op, List.replicate (((opOfCode op).map (zeroOperandLength c)).getD 0) 0⟩

/-- What the decoder reads from a row's word, with zero operands, in the standard build. -/
def decodeTableWord (nbits w : Nat) : Option Instr :=
  match decode Config.standard (commandOfTableWord Config.standard (w % 2 ^ nbits)) with
  | .ok i => some i
  | .error _ => none

end Sys2Proof
end

