-- ==== Sys2Proof/Machine/Store.lean ====
section
/-! DEFINITION. The block's stores as plain data: a store is the list of its cells that differ from what an
unlisted cell reads as, by rising index. `win`, `rwin`, `occ` and `asm_buf` (10_state.md R38, R42 to R44) are
stores; `asm_buf`, whose cells are bytes, is a memory of `Host.Cell`. -/

namespace Sys2Proof.Machine

/-- A store of `α` by index. -/
abbrev Store (α : Type) := List (Nat × α)

namespace Store

/-- The cell at an index; `d` is what an unlisted one reads as. -/
def read {α : Type} (d : α) : Store α → Nat → α
  | [], _ => d
  | (j, v) :: rest, k => if j = k then v else read d rest k

/-- Writes one cell and keeps the canonical form: writing `d` takes the cell off the list. -/
def write {α : Type} [DecidableEq α] (d : α) : Store α → Nat → α → Store α
  | [], k, v => if v = d then [] else [(k, v)]
  | (j, w) :: rest, k, v =>
    if j < k then (j, w) :: write d rest k v
    else if j = k then (if v = d then rest else (k, v) :: rest)
    else if v = d then (j, w) :: rest else (k, v) :: (j, w) :: rest

/-- The canonical form: indexes strictly rising, no cell equal to what an unlisted one reads as. -/
abbrev wf {α : Type} (d : α) (m : Store α) : Prop :=
  m.Pairwise (fun a b => a.1 < b.1) ∧ ∀ p ∈ m, p.2 ≠ d

/-- A store in canonical form from any list of cells, keeping those below a bound: a later cell for the
same index wins. -/
def ofCells {α : Type} [DecidableEq α] (d : α) (bound : Nat) (cells : List (Nat × α)) : Store α :=
  (cells.filter (fun p => decide (p.1 < bound))).foldl (fun m p => write d m p.1 p.2) []

end Store

/-- A memory of bytes. -/
abbrev Memory := List Host.Cell

namespace Memory

/-- What a byte nothing has written reads as. DESIGN CHOICE (log 3): the spec leaves it unspecified
(10_state.md R44, U9) and no rule reads one. -/
def unwritten : Byte := 0x00

/-- One byte. -/
def read (m : Memory) (a : Nat) : Byte := Store.read unwritten m a

/-- Writes one byte. -/
def write (m : Memory) (a : Nat) (b : Byte) : Memory := Store.write unwritten m a b

/-- The canonical form of a memory. -/
abbrev wf (m : Memory) : Prop := Store.wf unwritten m

/-- `Copy(m, off, bytes, 0, n)`: the bytes one after another, in ascending order (00_scope.md R18). -/
def writeBytes (m : Memory) (off : Nat) : List Byte → Memory
  | [] => m
  | b :: rest => writeBytes (m.write off b) (off + 1) rest

/-- The bytes `[off, off+n)`. -/
def readBytes (m : Memory) (off n : Nat) : List Byte := (List.range n).map fun k => m.read (off + k)

end Memory

end Sys2Proof.Machine
end

