-- ==== Sys2Proof/Machine/State.lean ====
section
/-! DEFINITION. The state of the block as plain data (10_state.md), its output actions and fault names, why a
step has no successor, and the state after the hardware reset. -/

namespace Sys2Proof.Machine

/-- The values of `snd_mode` and `rcv_mode`; the 2-bit value 3 is never taken (10_state.md R36). -/
inductive Mode where
  | off | ready | halted
  deriving DecidableEq, Repr

/-- The two units that hold state (10_state.md R20, R21). -/
inductive UnitId where
  | snd | rcv
  deriving DecidableEq, Repr

/-- The fatal faults of 60_exceptions.md R251. -/
inductive Fatal where
  /-- Raised by SND.MSG when `q_count = B` (R252). -/
  | capacityExceeded
  /-- Raised by WINDOW_FILL when a frame would need sequence number `0xFFFFFFFF` (R253). -/
  | seqExhausted
  /-- Raised by SND.MSG when `len > MSG_MAX` (R254). -/
  | msgTooLong
  /-- Raised by CONSUME on a validated frame it cannot consume (R258). -/
  | rxMalformed
  deriving DecidableEq, Repr

/-- The recoverable conditions of 60_exceptions.md R251: named, stored nowhere. -/
inductive Recoverable where
  /-- `CHK.VALIDATE(F) = 0` (R255). -/
  | corruption
  /-- A sequence number outside the receive window (R256). -/
  | outOfWindow
  /-- An acknowledgment number outside `[ack_expected, next_seq)` (R257). -/
  | staleAck
  deriving DecidableEq, Repr

/-- A `raise`: the fault and its `info` argument (60_exceptions.md R251). -/
structure Raise where
  cause : Fatal
  info : Word
  deriving DecidableEq, Repr

/-- The output actions of 30_encoding.md R101. The fault report carries the `info` of 60_exceptions.md
R251 (log 14). -/
inductive Action where
  /-- `SendFrame(F)`: by SND a data frame, by RCV an ACK frame. -/
  | sendFrame (f : Frame)
  /-- `DeliverMessage(len, data)`: by RCV only. -/
  | deliverMessage (len : Word) (data : List Byte)
  /-- `StartTimer(TIMEOUT)`: by SND only. -/
  | startTimer (duration : Nat)
  /-- `StopTimer()`: by SND only. -/
  | stopTimer
  /-- `Fault(name)`: by `raise` only, always last. -/
  | fault (r : Raise)
  deriving DecidableEq, Repr

/-- What FRM.PARSE returns (41_framer.md R155). -/
structure Fields where
  chk : Half
  seq : Word
  plen : Byte
  payload : List Byte
  deriving DecidableEq, Repr

/-- What a CHK or FRM operation returns to its caller (30_encoding.md R105, column result). -/
inductive Result where
  /-- CHK.SUM. -/
  | checksum (v : Half)
  /-- CHK.VALIDATE. -/
  | verdict (ok : Bool)
  /-- CHK.STAMP, FRM.DATA, FRM.ACK. -/
  | frame (f : Frame)
  /-- FRM.PARSE. -/
  | fields (f : Fields)
  deriving DecidableEq, Repr

/-- An entry of the pending-message queue: `(mseq, len, data)` (10_state.md R41). -/
structure QEntry where
  mseq : Word
  len : Word
  data : List Byte
  deriving DecidableEq, Repr

/-- The state of unit SND (10_state.md R23 to R29, R36, R37, R40 to R42). -/
structure Snd where
  /-- `snd_mode` (R36). -/
  mode : Mode
  /-- `snd_fault` (R40). -/
  fault : Byte
  /-- `ack_expected`, the oldest unacknowledged frame number (R23). -/
  ackExpected : Word
  /-- `next_seq`, the next frame number to assign (R24). -/
  nextSeq : Word
  /-- `next_to_transmit`, the lowest frame number not yet given to the channel (R25). -/
  nextToTransmit : Word
  /-- `nbuffered`, the count of unacknowledged frames (R26). -/
  nbuffered : Nat
  /-- `msg_next`, the number the next message gets (R27). -/
  msgNext : Word
  /-- `cur_msg_seq`, the number of the message being fragmented (R28). -/
  curMsgSeq : Word
  /-- `cur_off`, the bytes of the head message already cut into frames (R29). -/
  curOff : Word
  /-- `tmr_run` (R37). -/
  tmrRun : Bool
  /-- `q`, head first (R41). -/
  q : List QEntry
  /-- `win[0..W-1]` (R42). -/
  win : Store Frame
  deriving DecidableEq, Repr

/-- `q_count`, the number of entries of `q` (10_state.md R41). -/
def Snd.qCount (u : Snd) : Nat := u.q.length

/-- The state of unit RCV (10_state.md R31 to R33, R36, R38 to R40, R43, R44). -/
structure Rcv where
  /-- `rcv_mode` (R36). -/
  mode : Mode
  /-- `rcv_fault` (R40). -/
  fault : Byte
  /-- `expected`, the next in-order frame number required (R31). -/
  expected : Word
  /-- `asm_active` (R39). -/
  asmActive : Bool
  /-- `asm_size`, the declared size of the message in reassembly (R32). -/
  asmSize : Word
  /-- `asm_off`, the reassembly write offset (R33). -/
  asmOff : Word
  /-- `occ[0..W-1]`: the flags that are 1 (R38). -/
  occ : Store Bool
  /-- `rwin[0..W-1]` (R43). -/
  rwin : Store Frame
  /-- `asm_buf` (R44). -/
  asmBuf : Memory
  deriving DecidableEq, Repr

/-- What reaches the block's boundary: a command (60_exceptions.md R265), or the reset input
(70_reset_and_hazards.md R290). -/
inductive Event where
  | command (m : Command)
  | hardReset
  deriving DecidableEq, Repr

/-- The state of the block. `snd` and `rcv` are the spec's; the other fields are the model's own
(INVENTORY.md, log 1, log 4, log 6, log 8). -/
structure State where
  /-- The build (00_scope.md R8 to R15); no step changes it (10_state.md R45). -/
  cfg : Config
  /-- Unit SND. -/
  snd : Snd
  /-- Unit RCV. -/
  rcv : Rcv
  /-- The events the harness has still to deliver, in its order (60_exceptions.md R265, R266). -/
  inbox : List Event
  /-- The ordered output list of the last operation (00_scope.md R19, 30_encoding.md R101). -/
  outbox : List Action
  /-- What the last operation returned, if it was one of CHK or FRM. -/
  result : Option Result
  /-- How many free values SND has drawn. -/
  sndFree : Nat
  /-- How many free values RCV has drawn. -/
  rcvFree : Nat
  deriving DecidableEq, Repr

/-- No step of the block stops the machine with a fault: a fatal fault is an entry the spec describes
(60_exceptions.md R262), so it is a next state, and every buffer access of a rule is inside its buffer
(44_common_semantics.md R232). The type has no constructor (log 12). -/
inductive Fault where
  deriving DecidableEq, Repr

/-- Why an event has no step. All are safe: the model stops where the spec gives no successor state. -/
inductive Refusal where
  /-- An instruction without a meaning in the model. No arm of `exec` raises it. Safe. -/
  | notModelled (mnemonic : String)
  /-- Any event but INIT delivered to a unit in mode OFF: "a model refuses the step" (60_exceptions.md R281).
  Raised by SND.MSG, SND.ACKF, SND.TIMEOUT, SND.FINAL, RCV.FRAME, RCV.FINAL. Safe. -/
  | unitOff
  /-- SND.TIMEOUT while `snd_mode` is not READY or `tmr_run = 0`: "the model has no such step"
  (42_sender.md R174, 60_exceptions.md R270, 92_eei_decisions.md D31). Raised by SND.TIMEOUT. Safe. -/
  | timeoutNotEnabled
  /-- An operand outside its type: a frame that is not `FRAME_SIZE` bytes, a message whose data is not `len` bytes:
  "the event's operand type excludes it" (70_reset_and_hazards.md R304, 30_encoding.md R100, U19). Raised by every
  operation with a frame operand and by SND.MSG. Safe. -/
  | operandShape
  /-- A command the decoder refuses, by the decoder's name for it (30_encoding.md R106). Raised by `step`. Safe. -/
  | undecodable (e : DecodeError)
  /-- A parameter outside its constraint: "not a legal configuration" (U19). Raised by `step`. Safe. -/
  | illegalBuild
  deriving DecidableEq, Repr

/-- SND at power-on: `snd_mode = OFF`, `snd_fault = 0`, `tmr_run = 0` (10_state.md R55); the rest, which the
spec leaves unspecified, is zero or empty. DESIGN CHOICE (log 2, log 3). -/
def Snd.powerOn : Snd where
  mode := .off
  fault := 0
  ackExpected := 0
  nextSeq := 0
  nextToTransmit := 0
  nbuffered := 0
  msgNext := 0
  curMsgSeq := 0
  curOff := 0
  tmrRun := false
  q := []
  win := []

/-- RCV at power-on: `rcv_mode = OFF`, `rcv_fault = 0` (10_state.md R55); the rest, which the spec leaves
unspecified, is zero or empty. DESIGN CHOICE (log 2, log 3). -/
def Rcv.powerOn : Rcv where
  mode := .off
  fault := 0
  expected := 0
  asmActive := false
  asmSize := 0
  asmOff := 0
  occ := []
  rwin := []
  asmBuf := []

/-- The block right after the hardware reset (10_state.md R55, 70_reset_and_hazards.md R290), with no event
to deliver. -/
def State.reset : State where
  cfg := Config.standard
  snd := Snd.powerOn
  rcv := Rcv.powerOn
  inbox := []
  outbox := []
  result := none
  sndFree := 0
  rcvFree := 0

end Sys2Proof.Machine
end

