-- ==== Sys2Proof/Machine/Operands.lean ====
section
/-! DEFINITION. The ways a buffer is addressed (44_common_semantics.md R232) and the operand guard. -/

namespace Sys2Proof.Machine

/-- `slot(s) = s mod W` (20_memory.md R69). -/
def slotOf (c : Config) (s : Word) : Nat := s.toNat % c.window

/-- What a window slot nothing has written reads as: a frame of zero bytes. DESIGN CHOICE (log 3): the spec
leaves it unspecified (10_state.md R42, R43, U9) and no rule reads one. -/
def blankFrame (c : Config) : Frame := List.replicate c.frameSize Memory.unwritten

/-- `win[s mod W]`. -/
def Snd.winAt (c : Config) (u : Snd) (s : Word) : Frame := Store.read (blankFrame c) u.win (slotOf c s)

/-- `win[s mod W] <- F`. -/
def Snd.setWin (c : Config) (u : Snd) (s : Word) (f : Frame) : Snd :=
  { u with win := Store.write (blankFrame c) u.win (slotOf c s) f }

/-- `rwin[s mod W]`. -/
def Rcv.rwinAt (c : Config) (r : Rcv) (s : Word) : Frame := Store.read (blankFrame c) r.rwin (slotOf c s)

/-- `rwin[s mod W] <- F`. -/
def Rcv.setRwin (c : Config) (r : Rcv) (s : Word) (f : Frame) : Rcv :=
  { r with rwin := Store.write (blankFrame c) r.rwin (slotOf c s) f }

/-- `buf[off .. off+n)` of a byte buffer: the cursor into a message (44_common_semantics.md R232). -/
def bytesFrom (buf : List Byte) (off n : Nat) : List Byte := (buf.drop off).take n

/-- `Copy(asm_buf, off, bytes, 0, n)` at the reassembly cursor. -/
def Rcv.asmWrite (r : Rcv) (off : Nat) (bytes : List Byte) : Rcv :=
  { r with asmBuf := r.asmBuf.writeBytes off bytes }

/-- `asm_buf[0 .. n)`. -/
def Rcv.asmPrefix (r : Rcv) (n : Nat) : List Byte := r.asmBuf.readBytes 0 n

/-- An operation runs only on operands of its types; any other operand is refused by name
(70_reset_and_hazards.md R304, U19). -/
def withOperands (i : Instr) (s : State) (body : Host.Outcome State Fault Refusal) :
    Host.Outcome State Fault Refusal :=
  if i.wf s.cfg then body else .refused .operandShape

end Sys2Proof.Machine
end

