-- ==== Sys2Proof/Machine/Flags.lean ====
section
/-! DEFINITION. The flags `tmr_run`, `occ` and `asm_active` (10_state.md R37 to R39), and the three range tests
that name a recoverable condition's cause. There are no condition codes (10_state.md R40). -/

namespace Sys2Proof.Machine

/-- `StartTimer(TIMEOUT)`: `tmr_run <- 1` (30_encoding.md R101). -/
def Snd.timerOn (u : Snd) : Snd := { u with tmrRun := true }

/-- `StopTimer()`: `tmr_run <- 0` (30_encoding.md R101). -/
def Snd.timerOff (u : Snd) : Snd := { u with tmrRun := false }

/-- `if tmr_run = 1: emit StopTimer()` (42_sender.md R171, R175). -/
def Snd.stopIfRunning (u : Snd) : List Action := if u.tmrRun then [.stopTimer] else []

/-- `occ[s mod W]`. -/
def Rcv.occAt (c : Config) (r : Rcv) (s : Word) : Bool := Store.read false r.occ (slotOf c s)

/-- `occ[s mod W] <- b`. -/
def Rcv.setOcc (c : Config) (r : Rcv) (s : Word) (b : Bool) : Rcv :=
  { r with occ := Store.write false r.occ (slotOf c s) b }

/-- `occ[i] <- 0` for every slot (43_receiver.md R211, R213). -/
def Rcv.clearOcc (r : Rcv) : Rcv := { r with occ := [] }

/-- The accumulator Idle: `asm_active <- 0; asm_off <- 0; asm_size <- 0` (43_receiver.md R215). -/
def Rcv.asmIdle (r : Rcv) : Rcv := { r with asmActive := false, asmOff := 0, asmSize := 0 }

/-- `ack_expected <= ack and ack < next_seq`, over nat (42_sender.md R173). -/
def Snd.ackInRange (u : Snd) (ack : Word) : Bool :=
  decide (u.ackExpected.toNat ≤ ack.toNat) && decide (ack.toNat < u.nextSeq.toNat)

/-- `(expected <= seq) and (seq < expected + W) and (seq <= 0xFFFFFFFE)`, over nat: `expected + W` does not
wrap (43_receiver.md R212). -/
def Rcv.inWindow (c : Config) (r : Rcv) (seq : Word) : Bool :=
  decide (r.expected.toNat ≤ seq.toNat) && decide (seq.toNat < r.expected.toNat + c.window) &&
  decide (seq.toNat ≤ 0xFFFFFFFE)

end Sys2Proof.Machine
end

