-- ==== Sys2Proof/Machine/Ops.lean ====
section
/-! DEFINITION. The operations every unit shares: the output list, fault entry and what leaves it, the mode guard,
the free values of FINAL and of the reset input, the status view. -/

namespace Sys2Proof.Machine

/-- The end of an operation: its output list, and no result for a caller. -/
def State.settle (s : State) (out : List Action) : State := { s with outbox := out, result := none }

/-- The end of a CHK or FRM operation: its result, and no output action (30_encoding.md R105). -/
def State.answer (s : State) (r : Result) : State := { s with outbox := [], result := some r }

/-- `emit A` (00_scope.md R19). -/
def State.emit (s : State) (a : Action) : State := { s with outbox := s.outbox ++ [a] }

/-- The code a fault register takes (60_exceptions.md R251). -/
def Fatal.code : Fatal → Byte
  | .capacityExceeded => 0x01
  | .seqExhausted => 0x02
  | .msgTooLong => 0x03
  | .rxMalformed => 0x11

/-- The code that names a recoverable condition in a trace (60_exceptions.md R251). -/
def Recoverable.code : Recoverable → Byte
  | .corruption => 0x80
  | .outOfWindow => 0x81
  | .staleAck => 0x82

/-- Writes a unit's mode and fault register. -/
def State.setLife (s : State) (u : UnitId) (m : Mode) (f : Byte) : State :=
  match u with
  | .snd => { s with snd := { s.snd with mode := m, fault := f } }
  | .rcv => { s with rcv := { s.rcv with mode := m, fault := f } }

/-- A unit's fault register. -/
def State.faultOf (s : State) : UnitId → Byte
  | .snd => s.snd.fault
  | .rcv => s.rcv.fault

/-- Fault entry, `raise X(info)` in unit `u`: the fault register takes the code, the mode becomes HALTED, the
output list gets `Fault X` as its last item; nothing else is written (60_exceptions.md R262). -/
def raise (u : UnitId) (r : Raise) (s : State) : State :=
  (s.setLife u .halted r.cause.code).emit (.fault r)

/-- What INIT does to the mode and the fault register, the one way back to READY: there is no
return-from-fault operation (60_exceptions.md R264, R280). -/
def enterReady (u : UnitId) (s : State) : State := s.setLife u .ready 0

/-- What FINAL does to the mode; the fault register keeps its value until the next INIT (60_exceptions.md R264,
42_sender.md R175, 43_receiver.md R213). -/
def enterOff (u : UnitId) (s : State) : State := s.setLife u .off (s.faultOf u)

/-- The mode guard of 42_sender.md R170 and 43_receiver.md R210: READY runs the operation, HALTED accepts and
discards the event, OFF has no step (60_exceptions.md R281). -/
def guardMode (m : Mode) (s : State) (body : State) : Host.Outcome State Fault Refusal :=
  match m with
  | .off => .refused .unitOff
  | .halted => .next (s.settle [])
  | .ready => .next body

/-- What a procedure leaves of its unit: the registers, the output items it emitted, and the `raise` that
ended it, if one did. -/
structure Progress (U : Type) where
  unit : U
  out : List Action
  raised : Option Raise
  deriving DecidableEq, Repr

/-- An operation of SND that ended normally or by a `raise`. -/
def State.endSnd (s : State) (p : Progress Snd) : State :=
  let s' := { s with snd := p.unit }.settle p.out
  match p.raised with
  | none => s'
  | some r => raise .snd r s'

/-- An operation of RCV that ended normally or by a `raise`. -/
def State.endRcv (s : State) (p : Progress Rcv) : State :=
  let s' := { s with rcv := p.unit }.settle p.out
  match p.raised with
  | none => s'
  | some r => raise .rcv r s'

/-- A free value for a counter "as wide as `w` needs" (10_state.md R46). -/
def freeCounter (n w : Nat) : Nat := Config.freeCount n % 2 ^ (Nat.log2 w + 1)

/-- SND's registers after FINAL and after the reset input: unspecified, so free values (10_state.md R55,
U8, U10). The mode, the fault register, `tmr_run`, the queue and the window are left as they are. -/
def Snd.scramble (c : Config) (n : Nat) (u : Snd) : Snd :=
  { u with
    ackExpected := Config.freeSndWord n
    nextSeq := Config.freeSndWord (n + 1)
    nextToTransmit := Config.freeSndWord (n + 2)
    nbuffered := freeCounter n c.window
    msgNext := Config.freeSndWord (n + 3)
    curMsgSeq := Config.freeSndWord (n + 4)
    curOff := Config.freeSndWord (n + 5) }

/-- How far one drawing of SND's free values moves its counter. -/
def sndStride : Nat := 6

/-- RCV's registers after FINAL and after the reset input: unspecified, so free values (10_state.md R55,
U8, U10). The mode, the fault register, the flags and the stores are left as they are. -/
def Rcv.scramble (n : Nat) (r : Rcv) : Rcv :=
  { r with
    expected := Config.freeRcvWord n
    asmSize := Config.freeRcvWord (n + 1)
    asmOff := Config.freeRcvWord (n + 2) }

/-- How far one drawing of RCV's free registers moves its counter. -/
def rcvStride : Nat := 3

/-- Any bytes cut or filled to the size of a frame: a window slot holds `FRAME_SIZE` bytes (10_state.md R42). -/
def fitFrame (c : Config) (f : Frame) : Frame := (f ++ blankFrame c).take c.frameSize

/-- A window store of any contents: `W` slots of `FRAME_SIZE` bytes (10_state.md R42, R43). -/
def windowOf (c : Config) (cells : List (Nat × Frame)) : Store Frame :=
  Store.ofCells (blankFrame c) c.window (cells.map fun p => (p.1, fitFrame c p.2))

/-- The contents of `q` after the reset input: unspecified, at most `B` entries (U8, 10_state.md R41). -/
def freeEntries (c : Config) (n : Nat) : List QEntry :=
  ((Config.freeQueue n).take c.queueCap).map fun p => ⟨p.1, BitVec.ofNat 32 p.2.length, p.2⟩

/-- `occ` after the reset input: `W` unspecified flags (U8). -/
def freeOcc (c : Config) (n : Nat) : Store Bool :=
  Store.ofCells false c.window ((List.range c.window).map fun i => (i, Config.freeBit (n + 1 + i)))

/-- The hardware reset input (70_reset_and_hazards.md R290): both units OFF, the fault registers and `tmr_run`
0, every other register, flag and buffer unspecified, no output action. -/
def hardReset (s : State) : State :=
  let c := s.cfg
  let n := s.sndFree
  let m := s.rcvFree
  { s with
    snd := { s.snd.scramble c n with
      mode := .off, fault := 0, tmrRun := false
      q := freeEntries c n
      win := windowOf c (Config.freeSndFrames n) }
    rcv := { s.rcv.scramble m with
      mode := .off, fault := 0
      asmActive := Config.freeBit m
      occ := freeOcc c m
      rwin := windowOf c (Config.freeRcvFrames m)
      asmBuf := Store.ofCells Memory.unwritten c.msgMax (Config.freeBytes m) }
    outbox := []
    result := none
    sndFree := n + sndStride
    rcvFree := m + rcvStride + c.window }

/-- `OFF = 0`, `READY = 1`, `HALTED = 2` (10_state.md R36). -/
def Mode.code : Mode → Nat
  | .off => 0
  | .ready => 1
  | .halted => 2

/-- `occ` as the `W` bits of status number 0x16 (10_state.md R46). -/
def Rcv.occBits (c : Config) (r : Rcv) : Nat :=
  ((List.range c.window).map fun i => if Store.read false r.occ i then 2 ^ i else 0).sum

/-- The read-only status view: the value at a status number, `none` where no register has that number
(10_state.md R46). Reading is not an operation and changes nothing. -/
def State.status (s : State) (n : Nat) : Option Nat :=
  match n with
  | 0x00 => some s.snd.mode.code
  | 0x01 => some s.snd.fault.toNat
  | 0x02 => some s.snd.ackExpected.toNat
  | 0x03 => some s.snd.nextSeq.toNat
  | 0x04 => some s.snd.nextToTransmit.toNat
  | 0x05 => some s.snd.nbuffered
  | 0x06 => some s.snd.msgNext.toNat
  | 0x07 => some s.snd.curMsgSeq.toNat
  | 0x08 => some s.snd.curOff.toNat
  | 0x09 => some s.snd.qCount
  | 0x0A => some s.snd.tmrRun.toNat
  | 0x10 => some s.rcv.mode.code
  | 0x11 => some s.rcv.fault.toNat
  | 0x12 => some s.rcv.expected.toNat
  | 0x13 => some s.rcv.asmActive.toNat
  | 0x14 => some s.rcv.asmSize.toNat
  | 0x15 => some s.rcv.asmOff.toNat
  | 0x16 => some (s.rcv.occBits s.cfg)
  | _ => none

/-- `IsTimerRunning() -> bool`, a read of `tmr_run` (30_encoding.md R101). -/
def State.isTimerRunning (s : State) : Bool := s.snd.tmrRun

end Sys2Proof.Machine
end

