-- ==== Sys2Proof/Machine/Checksum.lean ====
section
/-! DEFINITION. Unit CHK, the ones'-complement checksum (40_checksum.md). -/

namespace Sys2Proof.Machine

/-- The words summed: `w_k = LE16(F, 2k)` for `k = 1 .. NWORDS` (40_checksum.md R130). -/
def chkWords (c : Config) (f : Frame) : List Nat := (List.range c.nWords).map fun k => le16 f (2 * (k + 1))

/-- The unfolded sum `S`, a plain addition over nat (40_checksum.md R131). -/
def chkRaw (c : Config) (f : Frame) : Nat := (chkWords c f).sum

/-- One fold, `(s >> 16) + (s & 0xFFFF)` (40_checksum.md R131). -/
def foldOnce (s : Nat) : Nat := (s >>> 16) + (s &&& 0xFFFF)

/-- `while (s >> 16) != 0: fold`, with the number of rounds bounded by the first argument. -/
def foldRounds : Nat → Nat → Nat
  | 0, s => s
  | n + 1, s => if s >>> 16 = 0 then s else foldRounds n (foldOnce s)

/-- The folded value. Every round makes a sum above 16 bits smaller, so `s` rounds are enough for any `s`
(log 16); two are for every legal frame (40_checksum.md R132). -/
def foldCarries (s : Nat) : Nat := foldRounds s s

/-- `CHK.SUM(F)`: the ones' complement of the folded sum (40_checksum.md R131). -/
def chkSum (c : Config) (f : Frame) : Half := ~~~ (BitVec.ofNat 16 (foldCarries (chkRaw c f)))

/-- `CHK.VALIDATE(F)`: exact equality of the recomputed checksum with the stored field (40_checksum.md R134,
R135). -/
def chkValidate (c : Config) (f : Frame) : Bool := (chkSum c f).toNat == le16 f 0

/-- `CHK.STAMP(F)`: `MemWrite(F, 0, 2, CHK.SUM(F))` (40_checksum.md R136). -/
def chkStamp (c : Config) (f : Frame) : Frame := memWrite f 0 2 (chkSum c f).toNat

/-- CHK.SUM (40_checksum.md R131): no state is written; the result goes to the caller. -/
def execChkSum (f : Frame) (s : State) : Host.Outcome State Fault Refusal :=
  withOperands (.chkSum f) s (.next (s.answer (.checksum (chkSum s.cfg f))))

/-- CHK.VALIDATE (40_checksum.md R134): no state is written; the result goes to the caller. -/
def execChkValidate (f : Frame) (s : State) : Host.Outcome State Fault Refusal :=
  withOperands (.chkValidate f) s (.next (s.answer (.verdict (chkValidate s.cfg f))))

/-- CHK.STAMP (40_checksum.md R136): the frame in hand with bytes 0 and 1 rewritten goes to the caller. -/
def execChkStamp (f : Frame) (s : State) : Host.Outcome State Fault Refusal :=
  withOperands (.chkStamp f) s (.next (s.answer (.frame (chkStamp s.cfg f))))

end Sys2Proof.Machine
end

