-- ==== Sys2Proof/Machine/Framer.lean ====
section
/-! DEFINITION. Unit FRM, the packet framer (41_framer.md). -/

namespace Sys2Proof.Machine

/-- `FRM.DATA(seq, plen, payload)`: the layout of 30_encoding.md R90, the bytes beyond the payload `PAD`, stamped
last (41_framer.md R151). -/
def frmData (c : Config) (seq : Word) (plen : Byte) (payload : List Byte) : Frame :=
  chkStamp c ([0, 0] ++ put32 seq ++ [plen] ++ payload ++
    List.replicate (c.frameSize - 7 - payload.length) c.pad)

/-- `FRM.ACK(ack)`: offsets 0 to 5 of the layout, the bytes from offset 6 `PAD`, stamped last
(41_framer.md R153). -/
def frmAck (c : Config) (ack : Word) : Frame :=
  chkStamp c ([0, 0] ++ put32 ack ++ List.replicate (c.frameSize - 6) c.pad)

/-- `FRM.PARSE(F)`: the fields as 30_encoding.md R96 assembles them; it checks nothing (41_framer.md R155). -/
def frmParse (f : Frame) : Fields where
  chk := BitVec.ofNat 16 (memRead f 0 2)
  seq := BitVec.ofNat 32 (memRead f 2 4)
  plen := byteAt f 6
  payload := f.drop 7

/-- The bytes `Copy(F, 7, payload, 0, plen)` leaves in the payload area (41_framer.md R151): the first `plen` bytes
of `payload`. The rule states no byte that `payload` does not hold, and no result of a copy past the end of the frame
(`plen > MAXP`): these bytes are free values. DESIGN CHOICE (log 19). -/
def copiedPayload (c : Config) (seq : Word) (plen : Byte) (payload : List Byte) : List Byte :=
  let free := c.freePayloadByte seq plen payload
  if plen.toNat ≤ c.maxPayload then
    payload.take plen.toNat ++
      (List.range (plen.toNat - payload.length)).map fun k => free (payload.length + k)
  else (List.range c.maxPayload).map free

/-- FRM.DATA (41_framer.md R151): the stamped frame goes to the caller. -/
def execFrmData (seq : Word) (plen : Byte) (payload : List Byte) (s : State) :
    Host.Outcome State Fault Refusal :=
  withOperands (.frmData seq plen payload) s
    (.next (s.answer (.frame (frmData s.cfg seq plen (copiedPayload s.cfg seq plen payload)))))

/-- FRM.ACK (41_framer.md R153): the stamped frame goes to the caller. -/
def execFrmAck (ack : Word) (s : State) : Host.Outcome State Fault Refusal :=
  withOperands (.frmAck ack) s (.next (s.answer (.frame (frmAck s.cfg ack))))

/-- FRM.PARSE (41_framer.md R155): the fields go to the caller. -/
def execFrmParse (f : Frame) (s : State) : Host.Outcome State Fault Refusal :=
  withOperands (.frmParse f) s (.next (s.answer (.fields (frmParse f))))

end Sys2Proof.Machine
end

