-- ==== Sys2Proof/Machine/Receiver.lean ====
section
/-! DEFINITION. Unit RCV, the reorder buffer and reassembler (43_receiver.md). -/

namespace Sys2Proof.Machine

/-- `expected -_32 1`, the number every acknowledgment carries (43_receiver.md R216). -/
def Rcv.ackNumber (r : Rcv) : Word := r.expected - 1

/-- `emit SendFrame(FRM.ACK(expected -_32 1))` (43_receiver.md R212). -/
def Rcv.ack (c : Config) (r : Rcv) : Action := .sendFrame (frmAck c r.ackNumber)

/-- The `raise RxMalformed(expected)` of CONSUME (43_receiver.md R215). -/
def Rcv.malformed (r : Rcv) : Raise := ⟨.rxMalformed, r.expected⟩

/-- The end of CONSUME: a complete message is delivered and the accumulator is Idle again (43_receiver.md R215). -/
def Rcv.deliverIfComplete (r : Rcv) : Progress Rcv :=
  if r.asmOff = r.asmSize then
    ⟨r.asmIdle, [.deliverMessage r.asmSize (r.asmPrefix r.asmSize.toNat)], none⟩
  else ⟨r, [], none⟩

/-- CONSUME of a first fragment (`asm_active = 0`), its tests in the order written (43_receiver.md R215). -/
def Rcv.consumeFirst (c : Config) (r : Rcv) (p : Fields) : Progress Rcv :=
  let mlen := le32 p.payload 0
  let n := p.plen.toNat - 4
  if p.plen.toNat < 4 then ⟨r, [], some r.malformed⟩
  else if c.msgMax < mlen.toNat then ⟨r, [], some r.malformed⟩
  else if mlen.toNat < n then ⟨r, [], some r.malformed⟩
  else if n = 0 ∧ 0 < mlen.toNat then ⟨r, [], some r.malformed⟩
  else
    ({ r.asmWrite 0 (bytesFrom p.payload 4 n) with
      asmSize := mlen, asmOff := BitVec.ofNat 32 n, asmActive := true } : Rcv).deliverIfComplete

/-- CONSUME of a continuation fragment (43_receiver.md R215). -/
def Rcv.consumeNext (r : Rcv) (p : Fields) : Progress Rcv :=
  let n := p.plen.toNat
  if r.asmSize.toNat < r.asmOff.toNat + n then ⟨r, [], some r.malformed⟩
  else
    ({ r.asmWrite r.asmOff.toNat (bytesFrom p.payload 0 n) with
      asmOff := r.asmOff + BitVec.ofNat 32 n } : Rcv).deliverIfComplete

/-- CONSUME(`G`) (43_receiver.md R215). -/
def Rcv.consume (c : Config) (r : Rcv) (g : Frame) : Progress Rcv :=
  let p := frmParse g
  if c.maxPayload < p.plen.toNat then ⟨r, [], some r.malformed⟩
  else if r.asmActive then r.consumeNext p
  else r.consumeFirst c p

/-- DRAIN, `while occ[expected mod W] = 1`, with at most as many iterations as the first argument. Each clears
one of `W` flags, so `W` are enough. The flag is cleared before the frame is consumed (43_receiver.md R214). -/
def Rcv.drain (c : Config) : Nat → Rcv → Progress Rcv
  | 0, r => ⟨r, [], none⟩
  | k + 1, r =>
    if r.occAt c r.expected then
      let p := (r.setOcc c r.expected false).consume c (r.rwinAt c r.expected)
      match p.raised with
      | some x => ⟨p.unit, p.out, some x⟩
      | none =>
        let rest := Rcv.drain c k { p.unit with expected := p.unit.expected + 1 }
        { rest with out := p.out ++ rest.out }
    else ⟨r, [], none⟩

/-- The recoverable condition RCV.FRAME ends with, if any: `Corruption`, then `OutOfWindow` (43_receiver.md R212,
60_exceptions.md R267). -/
def Rcv.frameCondition (c : Config) (r : Rcv) (f : Frame) : Option Recoverable :=
  if chkValidate c f = false then some .corruption
  else if r.inWindow c (frmParse f).seq = false then some .outOfWindow
  else none

/-- `rwin[seq mod W] <- F; occ[seq mod W] <- 1` (43_receiver.md R212). -/
def Rcv.store (c : Config) (r : Rcv) (seq : Word) (f : Frame) : Rcv :=
  (r.setRwin c seq f).setOcc c seq true

/-- RCV.FRAME on an in-window frame: store it; if it is the expected one, drain and acknowledge; else
acknowledge it as buffered where the build does so (43_receiver.md R212). -/
def Rcv.acceptFrame (c : Config) (r : Rcv) (seq : Word) (f : Frame) : Progress Rcv :=
  let r' := r.store c seq f
  if seq = r.expected then
    let p := r'.drain c c.window
    match p.raised with
    | some _ => p
    | none => { p with out := p.out ++ [p.unit.ack c] }
  else ⟨r', if c.ackOnBuffer then [r'.ack c] else [], none⟩

/-- RCV.FRAME in mode READY (43_receiver.md R212). -/
def Rcv.onFrame (c : Config) (r : Rcv) (f : Frame) : Progress Rcv :=
  match r.frameCondition c f with
  | some .outOfWindow => ⟨r, [r.ack c], none⟩
  | some _ => ⟨r, [], none⟩
  | none => r.acceptFrame c (frmParse f).seq f

/-- RCV.INIT's register values (43_receiver.md R211, 10_state.md R55); `rwin` and `asm_buf` are not cleared. -/
def Rcv.fresh (r : Rcv) : Rcv := { r.clearOcc.asmIdle with expected := 0 }

/-- RCV.INIT (43_receiver.md R211). -/
def execRcvInit (s : State) : Host.Outcome State Fault Refusal :=
  .next (enterReady .rcv ({ s with rcv := s.rcv.fresh }.settle []))

/-- RCV.FRAME (43_receiver.md R212). -/
def execRcvFrame (f : Frame) (s : State) : Host.Outcome State Fault Refusal :=
  withOperands (.rcvFrame f) s (guardMode s.rcv.mode s (s.endRcv (s.rcv.onFrame s.cfg f)))

/-- What RCV.FINAL leaves: the flags clear, every register but the mode and the fault register unspecified
(43_receiver.md R213, 10_state.md R55). -/
def Rcv.final (n : Nat) (r : Rcv) : Rcv := { r.clearOcc.scramble n with asmActive := false }

/-- RCV.FINAL: enabled in READY and in HALTED (43_receiver.md R213). -/
def execRcvFinal (s : State) : Host.Outcome State Fault Refusal :=
  match s.rcv.mode with
  | .off => .refused .unitOff
  | .ready | .halted =>
    .next (enterOff .rcv
      ({ s with rcv := s.rcv.final s.rcvFree, rcvFree := s.rcvFree + rcvStride }.settle []))

end Sys2Proof.Machine
end

