-- ==== Sys2Proof/Machine/Sender.lean ====
section
/-! DEFINITION. Unit SND, the sliding-window sender (42_sender.md). -/

namespace Sys2Proof.Machine

/-- What the next fragment of the head message carries: the payload, and `n`, how many message bytes are in
it. A first fragment (`cur_off = 0`) has the 4-byte length prefix in front (42_sender.md R176). -/
def Snd.fragment (c : Config) (u : Snd) (m : QEntry) : List Byte × Nat :=
  if u.curOff = 0 then
    let n := min m.len.toNat (c.maxPayload - 4)
    (put32 m.len ++ bytesFrom m.data 0 n, n)
  else
    let n := min (m.len.toNat - u.curOff.toNat) c.maxPayload
    (bytesFrom m.data u.curOff.toNat n, n)

/-- `plen` of that fragment: `n + 4` for a first fragment, else `n` (42_sender.md R176). -/
def Snd.fragmentLength (c : Config) (u : Snd) (m : QEntry) : Byte :=
  BitVec.ofNat 8 (if u.curOff = 0 then (u.fragment c m).2 + 4 else (u.fragment c m).2)

/-- The data frame of that fragment (42_sender.md R176). -/
def Snd.fragmentFrame (c : Config) (u : Snd) (m : QEntry) : Frame :=
  frmData c u.nextSeq (u.fragmentLength c m) (u.fragment c m).1

/-- The head message is fully fragmented: it leaves the queue and the cursor moves to the next message
(42_sender.md R176). -/
def Snd.popHead (u : Snd) : Snd :=
  { u with q := u.q.tail, curMsgSeq := u.curMsgSeq + 1, curOff := 0 }

/-- One iteration of WINDOW_FILL's loop on the head message `m` (42_sender.md R176). -/
def Snd.fillOne (c : Config) (u : Snd) (m : QEntry) : Snd :=
  let u' := u.setWin c u.nextSeq (u.fragmentFrame c m)
  let u'' := { u' with
    curOff := u.curOff + BitVec.ofNat 32 (u.fragment c m).2
    nextSeq := u.nextSeq + 1
    nbuffered := u.nbuffered + 1 }
  if u''.curOff = m.len then u''.popHead else u''

/-- WINDOW_FILL's loop, `while nbuffered < W and q_count > 0`, with at most as many iterations as the first
argument. Each adds 1 to `nbuffered`, so `W` are enough (42_sender.md R176). -/
def Snd.fillLoop (c : Config) : Nat → Snd → Snd × Option Raise
  | 0, u => (u, none)
  | k + 1, u =>
    match u.q with
    | [] => (u, none)
    | m :: _ =>
      if u.nbuffered < c.window then
        if u.nextSeq = noneYet then (u, some ⟨.seqExhausted, u.nextSeq⟩)
        else Snd.fillLoop c k (u.fillOne c m)
      else (u, none)

/-- The frames TRANSMIT sends: `win[s mod W]` for `s` from `next_to_transmit` to `next_seq - 1`, ascending
(42_sender.md R177). -/
def Snd.pendingFrames (c : Config) (u : Snd) : List Frame :=
  (List.range (u.nextSeq.toNat - u.nextToTransmit.toNat)).map fun k =>
    u.winAt c (BitVec.ofNat 32 (u.nextToTransmit.toNat + k))

/-- TRANSMIT (42_sender.md R177). -/
def Snd.transmit (c : Config) (u : Snd) : Progress Snd where
  unit := { u with nextToTransmit := u.nextSeq }
  out := (u.pendingFrames c).map .sendFrame
  raised := none

/-- WINDOW_FILL: the loop, then TRANSMIT; a `raise` in the loop ends the operation before it
(42_sender.md R176). -/
def Snd.windowFill (c : Config) (u : Snd) : Progress Snd :=
  match Snd.fillLoop c c.window u with
  | (u', none) => u'.transmit c
  | (u', some r) => ⟨u', [], some r⟩

/-- SND.INIT's register values (42_sender.md R171, 10_state.md R55); `win` is not cleared. -/
def Snd.fresh (u : Snd) : Snd :=
  { u.timerOff with
    ackExpected := 0, nextSeq := 0, nextToTransmit := 0, nbuffered := 0
    msgNext := 0, curMsgSeq := 0, curOff := 0
    q := [] }

/-- SND.INIT (42_sender.md R171). -/
def execSndInit (s : State) : Host.Outcome State Fault Refusal :=
  .next (enterReady .snd ({ s with snd := s.snd.fresh }.settle s.snd.stopIfRunning))

/-- SND.MSG after its two tests: the message is appended, and an idle timer is started and the window filled
(42_sender.md R172). -/
def Snd.enqueue (c : Config) (u : Snd) (len : Word) (data : List Byte) : Progress Snd :=
  let u' := { u with q := u.q ++ [⟨u.msgNext, len, data⟩], msgNext := u.msgNext + 1 }
  if u.tmrRun then ⟨u', [], none⟩
  else
    let p := u'.timerOn.windowFill c
    { p with out := .startTimer c.timeout :: p.out }

/-- SND.MSG in mode READY (42_sender.md R172; order of tests 60_exceptions.md R267). -/
def Snd.onMessage (c : Config) (u : Snd) (len : Word) (data : List Byte) : Progress Snd :=
  if c.msgMax < len.toNat then ⟨u, [], some ⟨.msgTooLong, len⟩⟩
  else if u.qCount = c.queueCap then ⟨u, [], some ⟨.capacityExceeded, u.msgNext⟩⟩
  else u.enqueue c len data

/-- SND.MSG (42_sender.md R172). -/
def execSndMsg (len : Word) (data : List Byte) (s : State) : Host.Outcome State Fault Refusal :=
  withOperands (.sndMsg len data) s
    (guardMode s.snd.mode s (s.endSnd (s.snd.onMessage s.cfg len data)))

/-- The recoverable condition SND.ACKF ends with, if any: `Corruption`, then `StaleAck` (42_sender.md R173,
60_exceptions.md R267). -/
def Snd.ackCondition (c : Config) (u : Snd) (f : Frame) : Option Recoverable :=
  if chkValidate c f = false then some .corruption
  else if u.ackInRange (frmParse f).seq = false then some .staleAck
  else none

/-- SND.ACKF on an in-range acknowledgment: restart the timer, release the frames, slide the window, and stop
the timer if nothing is outstanding after the fill (42_sender.md R173). -/
def Snd.acceptAck (c : Config) (u : Snd) (ack : Word) : Progress Snd :=
  let u' := { u.timerOn with
    nbuffered := u.nbuffered - (ack.toNat - u.ackExpected.toNat + 1)
    ackExpected := ack + 1 }
  let p := u'.windowFill c
  match p.raised with
  | some r => ⟨p.unit, .startTimer c.timeout :: p.out, some r⟩
  | none =>
    if p.unit.ackExpected = p.unit.nextSeq then
      ⟨p.unit.timerOff, .startTimer c.timeout :: p.out ++ [.stopTimer], none⟩
    else ⟨p.unit, .startTimer c.timeout :: p.out, none⟩

/-- SND.ACKF in mode READY (42_sender.md R173): a dropped or ignored frame changes nothing. -/
def Snd.onAck (c : Config) (u : Snd) (f : Frame) : Progress Snd :=
  match u.ackCondition c f with
  | some _ => ⟨u, [], none⟩
  | none => u.acceptAck c (frmParse f).seq

/-- SND.ACKF (42_sender.md R173). -/
def execSndAckf (f : Frame) (s : State) : Host.Outcome State Fault Refusal :=
  withOperands (.sndAckf f) s (guardMode s.snd.mode s (s.endSnd (s.snd.onAck s.cfg f)))

/-- SND.TIMEOUT in mode READY with the timer running: the timer has fired, it is started again, and every
unacknowledged frame is sent again (42_sender.md R174). -/
def Snd.onTimeout (c : Config) (u : Snd) : Progress Snd :=
  let p := { u.timerOff.timerOn with nextToTransmit := u.ackExpected }.transmit c
  { p with out := .startTimer c.timeout :: p.out }

/-- SND.TIMEOUT: enabled only in mode READY while the timer runs (42_sender.md R174, 60_exceptions.md R270,
R281). -/
def execSndTimeout (s : State) : Host.Outcome State Fault Refusal :=
  match s.snd.mode with
  | .off => .refused .unitOff
  | .halted => .refused .timeoutNotEnabled
  | .ready =>
    if s.snd.tmrRun then .next (s.endSnd (s.snd.onTimeout s.cfg)) else .refused .timeoutNotEnabled

/-- What SND.FINAL leaves: the timer stopped, the queue empty, every register but the mode and the fault
register unspecified (42_sender.md R175, 10_state.md R55). -/
def Snd.final (c : Config) (n : Nat) (u : Snd) : Snd := { u.timerOff.scramble c n with q := [] }

/-- SND.FINAL: enabled in READY and in HALTED (42_sender.md R175). -/
def execSndFinal (s : State) : Host.Outcome State Fault Refusal :=
  match s.snd.mode with
  | .off => .refused .unitOff
  | .ready | .halted =>
    .next (enterOff .snd
      ({ s with snd := s.snd.final s.cfg s.sndFree, sndFree := s.sndFree + sndStride }.settle
        s.snd.stopIfRunning))

end Sys2Proof.Machine
end

