-- ==== Sys2Proof/Machine/Dispatch.lean ====
section
/-! DEFINITION. One arm per operation of 00_scope.md R4. -/

namespace Sys2Proof.Machine

def exec (i : Instr) (s : State) : Host.Outcome State Fault Refusal :=
  match i with
  | .chkSum f => Sys2Proof.Machine.execChkSum f s
  | .chkValidate f => Sys2Proof.Machine.execChkValidate f s
  | .chkStamp f => Sys2Proof.Machine.execChkStamp f s
  | .frmData seq plen payload => Sys2Proof.Machine.execFrmData seq plen payload s
  | .frmAck ack => Sys2Proof.Machine.execFrmAck ack s
  | .frmParse f => Sys2Proof.Machine.execFrmParse f s
  | .sndInit => Sys2Proof.Machine.execSndInit s
  | .sndMsg len data => Sys2Proof.Machine.execSndMsg len data s
  | .sndAckf f => Sys2Proof.Machine.execSndAckf f s
  | .sndTimeout => Sys2Proof.Machine.execSndTimeout s
  | .sndFinal => Sys2Proof.Machine.execSndFinal s
  | .rcvInit => Sys2Proof.Machine.execRcvInit s
  | .rcvFrame f => Sys2Proof.Machine.execRcvFrame f s
  | .rcvFinal => Sys2Proof.Machine.execRcvFinal s

end Sys2Proof.Machine
end

