-- ==== Sys2Proof/Machine/Fetch.lean ====
section
/-! DEFINITION. Where the next operation comes from: the block has no program counter, and the harness delivers
events one at a time (10_state.md R35, 60_exceptions.md R266). -/

namespace Sys2Proof.Machine

/-- What the front of the inbox asks for. -/
inductive Fetched where
  /-- No event: the block is idle (44_common_semantics.md R233). -/
  | idle
  /-- The reset input (70_reset_and_hazards.md R290), with the state in which it is asserted. -/
  | reset (s : State)
  /-- A command that decodes, with the state in which its operation runs. -/
  | run (i : Instr) (s : State)
  /-- A command or a build with no step. -/
  | refuse (r : Refusal)
  deriving DecidableEq, Repr

/-- Takes the next event off the inbox and decodes it. A build outside its constraints runs nothing (U19);
a command that decodes to nothing has no step (30_encoding.md R106). -/
def fetch (s : State) : Fetched :=
  if s.cfg.legal then
    match s.inbox with
    | [] => .idle
    | .hardReset :: rest => .reset { s with inbox := rest }
    | .command m :: rest =>
      match decode s.cfg m with
      | .ok i => .run i { s with inbox := rest }
      | .error e => .refuse (.undecodable e)
  else .refuse .illegalBuild

/-- The front of the inbox with the command of a table word, its operand bytes zero. -/
def placeTableWord (s : State) (w : Nat) : State :=
  { s with inbox := .command (commandOfTableWord s.cfg w) :: s.inbox }

end Sys2Proof.Machine
end

