-- ==== Sys2Proof/Machine/Step.lean ====
section
/-! DEFINITION. One step of the block: one event, run to completion (00_scope.md R3). -/

namespace Sys2Proof.Machine

/-- One step. With no event to deliver the block keeps its state (44_common_semantics.md R233). -/
def step (s : State) : Host.Outcome State Fault Refusal :=
  match fetch s with
  | .idle => .next s
  | .reset s' => .next (hardReset s')
  | .run i s' => exec i s'
  | .refuse r => .refused r

/-- The state whose very next step runs the operation of a table word with zero operands (log 5). -/
def State.withFetchWord (s : State) (nbits w : Nat) : State := placeTableWord s (w % 2 ^ nbits)

end Sys2Proof.Machine
end

