-- ==== Sys2Proof/Machine/Channel.lean ====
section
/-! DEFINITION. The surroundings of the block as far as the spec describes them (20_memory.md R80 to R84,
60_exceptions.md R265, R266, R274): the channel's two bags, the application's two ports, the timer and the
lifecycle, with every choice of theirs an argument. Not block state (10_state.md R22, R50; log 15). -/

namespace Sys2Proof.Machine

/-- The block and what stands around it. -/
structure System where
  /-- The block. -/
  block : State
  /-- `fwd`: frames sent by SND on their way to RCV (R80). -/
  fwd : List Frame
  /-- `bwd`: frames sent by RCV on their way to SND (R80). -/
  bwd : List Frame
  /-- The messages SND has taken into its queue, oldest first. A record for claims, read by no move. -/
  enqueued : List (Word × List Byte)
  /-- The messages RCV has delivered, oldest first. A record for claims, read by no move. -/
  delivered : List (Word × List Byte)
  deriving DecidableEq, Repr

/-- What the environment may do next. -/
inductive Move where
  /-- Harness lifecycle (60_exceptions.md R265). -/
  | sndInit | sndFinal | rcvInit | rcvFinal
  /-- The reset input (70_reset_and_hazards.md R290). -/
  | hardReset
  /-- The application hands over a message (30_encoding.md R100). -/
  | message (len : Word) (data : List Byte)
  /-- The timer expires (60_exceptions.md R270). -/
  | expiry
  /-- Take the frame at a place in `fwd` and deliver it to RCV, as it was or changed (R82, R84); `keep` leaves it
  in the bag (duplication). -/
  | deliverFwd (k : Nat) (keep : Bool) (arrives : Frame)
  /-- The same from `bwd` to SND. -/
  | deliverBwd (k : Nat) (keep : Bool) (arrives : Frame)
  /-- Remove a frame from `fwd` without delivering it (R83). -/
  | dropFwd (k : Nat)
  /-- Remove a frame from `bwd` without delivering it (R83). -/
  | dropBwd (k : Nat)
  deriving DecidableEq, Repr

/-- The frames an output list hands to the channel, in order (R81). -/
def sentFrames (out : List Action) : List Frame :=
  out.filterMap fun a => match a with
    | .sendFrame f => some f
    | _ => none

/-- The messages an output list hands to the application, in order (30_encoding.md R101). -/
def deliveredMessages (out : List Action) : List (Word × List Byte) :=
  out.filterMap fun a => match a with
    | .deliverMessage len data => some (len, data)
    | _ => none

/-- Runs an operation of the block; `none` where it has no step. -/
def issue (i : Instr) (s : State) : Option State :=
  match exec i s with
  | .next t => some t
  | .fault _ => none
  | .refused _ => none

/-- An operation of SND: its frames go into `fwd` (R81). -/
def System.sndOp (y : System) (i : Instr) : Option System :=
  (issue i y.block).map fun t => { y with block := t, fwd := y.fwd ++ sentFrames t.outbox }

/-- An operation of RCV: its frames go into `bwd` (R81), its messages to the application. -/
def System.rcvOp (y : System) (i : Instr) : Option System :=
  (issue i y.block).map fun t =>
    { y with
      block := t
      bwd := y.bwd ++ sentFrames t.outbox
      delivered := y.delivered ++ deliveredMessages t.outbox }

/-- The messages taken into the queue by a step: SND.MSG advances `msg_next` exactly when it enqueues
(42_sender.md R172). -/
def System.noteMessage (before : State) (len : Word) (data : List Byte) (y : System) : System :=
  if y.block.snd.msgNext = before.snd.msgNext then y
  else { y with enqueued := y.enqueued ++ [(len, data)] }

/-- One move of the environment with the step of the block it causes; `none` where the environment cannot make
it: no such frame in the bag, or an event the block has no step for. -/
def System.move (y : System) : Move → Option System
  | .sndInit => y.sndOp .sndInit
  | .sndFinal => y.sndOp .sndFinal
  | .rcvInit => y.rcvOp .rcvInit
  | .rcvFinal => y.rcvOp .rcvFinal
  | .hardReset => some { y with block := Sys2Proof.Machine.hardReset y.block }
  | .message len data => (y.sndOp (.sndMsg len data)).map (System.noteMessage y.block len data)
  | .expiry => y.sndOp .sndTimeout
  | .deliverFwd k keep arrives =>
    if k < y.fwd.length then
      { y with fwd := if keep then y.fwd else y.fwd.eraseIdx k }.rcvOp (.rcvFrame arrives)
    else none
  | .deliverBwd k keep arrives =>
    if k < y.bwd.length then
      { y with bwd := if keep then y.bwd else y.bwd.eraseIdx k }.sndOp (.sndAckf arrives)
    else none
  | .dropFwd k => if k < y.fwd.length then some { y with fwd := y.fwd.eraseIdx k } else none
  | .dropBwd k => if k < y.bwd.length then some { y with bwd := y.bwd.eraseIdx k } else none

/-- A sequence of moves. -/
def System.moves : List Move → System → Option System
  | [], y => some y
  | m :: rest, y => (y.move m).bind (System.moves rest)

/-- A frame arrives as one that is in the bag, or it fails validation: no undetected corruption, the premise of
43_receiver.md R219 and 95_test_vectors.md section 5 item 7. -/
def Move.honest (y : System) : Move → Prop
  | .deliverFwd k _ arrives => y.fwd[k]? = some arrives ∨ chkValidate y.block.cfg arrives = false
  | .deliverBwd k _ arrives => y.bwd[k]? = some arrives ∨ chkValidate y.block.cfg arrives = false
  | _ => True

/-- A move that starts or ends an instance (70_reset_and_hazards.md R290, R291, R293). -/
def Move.lifecycle : Move → Bool
  | .sndInit | .sndFinal | .rcvInit | .rcvFinal | .hardReset => true
  | _ => false

/-- Every move of a sequence is honest where it is made, and none starts or ends an instance. -/
def System.honestMoves : List Move → System → Prop
  | [], _ => True
  | m :: rest, y =>
    m.honest y ∧ m.lifecycle = false ∧ ∀ y', y.move m = some y' → System.honestMoves rest y'

/-- A lossless channel that keeps order: the frames reach RCV one after another, as they were sent. What RCV
emits is gathered. -/
def relay : List Frame → State → Option (State × List Action)
  | [], s => some (s, [])
  | f :: rest, s =>
    (issue (.rcvFrame f) s).bind fun t =>
      (relay rest t).map fun r => (r.1, t.outbox ++ r.2)

end Sys2Proof.Machine
end

