-- ==== Sys2Proof/Safety.lean ====
section
/-! DEFINITION. The terms claims use: which operations are enabled, which unit an operation belongs to, the
invariants the spec states (10_state.md R30, R34, R40), and what a run without a fault is (60_exceptions.md R263). -/

namespace Sys2Proof.Machine

/-- The unit whose state an operation may write; CHK and FRM hold none (10_state.md R20, R21). -/
def ownerOf : Instr → Option UnitId
  | .chkSum _ | .chkValidate _ | .chkStamp _ | .frmData _ _ _ | .frmAck _ | .frmParse _ => none
  | .sndInit | .sndMsg _ _ | .sndAckf _ | .sndTimeout | .sndFinal => some .snd
  | .rcvInit | .rcvFrame _ | .rcvFinal => some .rcv

/-- Whether an operation has a step, by its unit's mode and the timer alone (60_exceptions.md R265, R280, R281). -/
def enabled (s : State) : Instr → Bool
  | .chkSum _ | .chkValidate _ | .chkStamp _ | .frmData _ _ _ | .frmAck _ | .frmParse _ => true
  | .sndInit | .rcvInit => true
  | .sndMsg _ _ | .sndAckf _ | .sndFinal => s.snd.mode != .off
  | .sndTimeout => s.snd.mode == .ready && s.snd.tmrRun
  | .rcvFrame _ | .rcvFinal => s.rcv.mode != .off

/-- No fault recorded, the premise of every claim of success (60_exceptions.md R263). -/
def Safe (s : State) : Prop := s.snd.fault = 0 ∧ s.rcv.fault = 0

/-- The window store of SND is in canonical form and holds whole frames in slots below `W` (10_state.md R42). -/
structure Snd.StoreInv (c : Config) (u : Snd) : Prop where
  canonical : Store.wf (blankFrame c) u.win
  slots : ∀ p ∈ u.win, p.1 < c.window ∧ p.2.length = c.frameSize

/-- The stores of RCV are in canonical form, their indexes inside the stores (10_state.md R38, R43, R44). -/
structure Rcv.StoreInv (c : Config) (r : Rcv) : Prop where
  occCanonical : Store.wf false r.occ
  occSlots : ∀ p ∈ r.occ, p.1 < c.window
  rwinCanonical : Store.wf (blankFrame c) r.rwin
  rwinSlots : ∀ p ∈ r.rwin, p.1 < c.window ∧ p.2.length = c.frameSize
  asmCanonical : r.asmBuf.wf
  asmInside : ∀ p ∈ r.asmBuf, p.1 < c.msgMax

/-- The sender's invariants in mode READY between operations (10_state.md R30; entries of `q` by R41). -/
structure Snd.Inv (c : Config) (u : Snd) : Prop where
  /-- (a) -/
  counted : u.nbuffered = u.nextSeq.toNat - u.ackExpected.toNat
  bounded : u.nbuffered ≤ c.window
  /-- (b) -/
  transmitted : u.nextToTransmit = u.nextSeq
  /-- (c) -/
  ordered : u.ackExpected.toNat ≤ u.nextSeq.toNat
  /-- (d), for every entry of the queue. -/
  queueCounted : u.qCount = (u.msgNext - u.curMsgSeq).toNat
  queueBounded : u.qCount ≤ c.queueCap
  numbered : ∀ k m, u.q[k]? = some m → m.mseq = u.curMsgSeq + BitVec.ofNat 32 k
  /-- R41: an entry holds `len` bytes, and only a length that passed SND.MSG's test. -/
  entries : ∀ m ∈ u.q, m.data.length = m.len.toNat ∧ m.len.toNat ≤ c.msgMax
  /-- (e) -/
  cursor : ∀ m, u.q.head? = some m → u.curOff = 0 ∨ u.curOff.toNat < m.len.toNat
  cursorIdle : u.q = [] → u.curOff = 0
  /-- (f) -/
  timer : u.tmrRun = true ↔ 0 < u.nbuffered
  /-- (g) -/
  stored : ∀ s : Word, u.ackExpected.toNat ≤ s.toNat → s.toNat < u.nextSeq.toNat →
    (∃ (plen : Byte) (payload : List Byte), plen.toNat ≤ c.maxPayload ∧ payload.length = plen.toNat ∧
      u.winAt c s = frmData c s plen payload) ∧
    (frmParse (u.winAt c s)).seq = s ∧ chkValidate c (u.winAt c s) = true

/-- The receiver's invariants in mode READY between operations (10_state.md R34). -/
structure Rcv.Inv (c : Config) (r : Rcv) : Prop where
  /-- (a) -/
  gap : r.occAt c r.expected = false
  /-- (b) -/
  buffered : ∀ i, Store.read false r.occ i = true →
    let f := Store.read (blankFrame c) r.rwin i
    let s := (frmParse f).seq
    chkValidate c f = true ∧ s.toNat % c.window = i ∧ r.expected.toNat < s.toNat ∧
      s.toNat < r.expected.toNat + c.window ∧ s.toNat ≤ 0xFFFFFFFE
  /-- (c) -/
  active : r.asmActive = true →
    0 < r.asmOff.toNat ∧ r.asmOff.toNat < r.asmSize.toNat ∧ r.asmSize.toNat ≤ c.msgMax
  idle : r.asmActive = false → r.asmOff = 0 ∧ r.asmSize = 0

/-- The invariant of the block: a legal build, stores in form, the fault register 0 in READY and set in HALTED
(10_state.md R40), and R30 and R34 in READY. -/
structure State.Inv (s : State) : Prop where
  legal : s.cfg.legal = true
  sndStores : s.snd.StoreInv s.cfg
  rcvStores : s.rcv.StoreInv s.cfg
  sndFault : (s.snd.mode = .ready → s.snd.fault = 0) ∧ (s.snd.mode = .halted → s.snd.fault ≠ 0)
  rcvFault : (s.rcv.mode = .ready → s.rcv.fault = 0) ∧ (s.rcv.mode = .halted → s.rcv.fault ≠ 0)
  snd : s.snd.mode = .ready → s.snd.Inv s.cfg
  rcv : s.rcv.mode = .ready → s.rcv.Inv s.cfg

/-- The words of the checksummed region, written with bytes: `F[2k] + 256 * F[2k+1]` for
`k = 1 .. FRAME_SIZE/2 - 1` (40_checksum.md R130). -/
def regionWords (c : Config) (f : Frame) : List Nat :=
  (List.range (c.frameSize / 2 - 1)).map fun k =>
    (byteAt f (2 * k + 2)).toNat + 256 * (byteAt f (2 * k + 3)).toNat

/-- `S`, the unfolded sum of the region (40_checksum.md R133). -/
def regionSum (c : Config) (f : Frame) : Nat := (regionWords c f).sum

/-- The closed form of the folded sum: `0` if `S = 0`, else `((S - 1) mod 0xFFFF) + 1` (40_checksum.md R133). -/
def closedFold (s : Nat) : Nat := if s = 0 then 0 else (s - 1) % 0xFFFF + 1

/-- The stored checksum field, `F[0] + 256 * F[1]` (30_encoding.md R96). -/
def storedChecksum (f : Frame) : Nat := (byteAt f 0).toNat + 256 * (byteAt f 1).toNat

/-- The number of data frames a message of length `L` is cut into:
`1 + ceil(max(0, L - (MAXP - 4)) / MAXP)` (42_sender.md R178). -/
def fragmentCount (c : Config) (len : Nat) : Nat :=
  1 + (len - (c.maxPayload - 4) + (c.maxPayload - 1)) / c.maxPayload

/-- The payload of the `k`-th data frame of a message: the length prefix and `min(L, MAXP - 4)` bytes, then
`MAXP` bytes a frame, the rest in the last (42_sender.md R178). -/
def fragmentPayload (c : Config) (len : Word) (data : List Byte) (k : Nat) : List Byte :=
  if k = 0 then put32 len ++ data.take (c.maxPayload - 4)
  else (data.drop (c.maxPayload - 4 + (k - 1) * c.maxPayload)).take c.maxPayload

/-- The stored frames numbered from `a` up to but not including `b`, ascending, as items to send. -/
def sends (c : Config) (u : Snd) (a b : Word) : List Action :=
  (List.range (b.toNat - a.toNat)).map fun k =>
    .sendFrame (Store.read (blankFrame c) u.win ((a.toNat + k) % c.window))

/-- How many data frames are still to be cut from the queue: what is left of the head message, and the whole of
every other (42_sender.md R176, R178). -/
def Snd.unsentFragments (c : Config) (u : Snd) : Nat :=
  match u.q with
  | [] => 0
  | m :: rest =>
    (if u.curOff = 0 then fragmentCount c m.len.toNat
      else (m.len.toNat - u.curOff.toNat + (c.maxPayload - 1)) / c.maxPayload) +
    (rest.map fun e => fragmentCount c e.len.toNat).sum

/-- How many sequence numbers a sender may still assign: `0xFFFFFFFF` is never one (42_sender.md R176). -/
def Snd.numbersLeft (u : Snd) : Nat := 0xFFFFFFFF - u.nextSeq.toNat

/-- What `SeqExhausted` in WINDOW_FILL leaves, `u` being the sender as the fill found it: the frames assigned before it
stand, TRANSMIT did not run, the sender is HALTED (42_sender.md R176, 60_exceptions.md R262). -/
structure Snd.Exhausted (c : Config) (u u' : Snd) : Prop where
  mode : u'.mode = .halted
  fault : u'.fault = 0x02
  nextSeq : u'.nextSeq = noneYet
  nbuffered : u'.nbuffered = u.nbuffered + u.numbersLeft
  ackExpected : u'.ackExpected = u.ackExpected
  nextToTransmit : u'.nextToTransmit = u.nextToTransmit
  msgNext : u'.msgNext = u.msgNext
  tmrRun : u'.tmrRun = u.tmrRun
  unsent : u'.unsentFragments c + u.numbersLeft = u.unsentFragments c
  queue : u'.q <:+ u.q
  assigned : ∀ s : Word, u.nextSeq.toNat ≤ s.toNat → s.toNat < 0xFFFFFFFF →
    chkValidate c (u'.winAt c s) = true ∧ (frmParse (u'.winAt c s)).seq = s

/-- What makes a frame one that CONSUME cannot take, by the six tests of 43_receiver.md R215. -/
def Malformed (c : Config) (r : Rcv) (f : Frame) : Prop :=
  let plen := (byteAt f 6).toNat
  let mlen := (le32 f 7).toNat
  c.maxPayload < plen ∨
  (r.asmActive = false ∧
    (plen < 4 ∨ c.msgMax < mlen ∨ mlen < plen - 4 ∨ (plen = 4 ∧ 0 < mlen))) ∨
  (r.asmActive = true ∧ r.asmSize.toNat < r.asmOff.toNat + plen)

/-- Window agreement and what carries it: the frames in flight, and those RCV holds, are numbered below
`next_seq`, every acknowledgment in flight is for frames RCV has consumed, and
`ack_expected <= expected <= next_seq` (43_receiver.md R219). -/
structure System.Agree (y : System) : Prop where
  block : y.block.Inv
  fwdNumbered : ∀ f ∈ y.fwd, (frmParse f).seq.toNat < y.block.snd.nextSeq.toNat
  bwdConsumed : ∀ f ∈ y.bwd, ((frmParse f).seq + 1).toNat ≤ y.block.rcv.expected.toNat
  heldNumbered : ∀ i, Store.read false y.block.rcv.occ i = true →
    (frmParse (Store.read (blankFrame y.block.cfg) y.block.rcv.rwin i)).seq.toNat <
      y.block.snd.nextSeq.toNat
  ackConsumed : y.block.snd.ackExpected.toNat ≤ y.block.rcv.expected.toNat
  consumedSent : y.block.rcv.expected.toNat ≤ y.block.snd.nextSeq.toNat

/-- A system right after both INITs, with nothing in the channel (20_memory.md R80, 70_reset_and_hazards.md R302). -/
structure System.Started (y : System) : Prop where
  legal : y.block.cfg.legal = true
  sndStores : y.block.snd.StoreInv y.block.cfg
  rcvStores : y.block.rcv.StoreInv y.block.cfg
  initialised : ∃ s t, exec .sndInit s = .next t ∧ exec .rcvInit t = .next y.block
  fwdEmpty : y.fwd = []
  bwdEmpty : y.bwd = []
  nothingEnqueued : y.enqueued = []
  nothingDelivered : y.delivered = []

end Sys2Proof.Machine
end

