-- ==== Sys2Proof/Certificates/Slice0/Obligations.lean ====
section
/-! DEFINITION. The statements for the provers, each with the rule of spec/ it comes from. -/

open Sys2Proof Sys2Proof.Machine

/-! ## Commands -/

/-- The command codes of 30_encoding.md R105: `op[4:3]` the unit, `op[2:0]` the function, and the code of each of
the 14 operations, whatever its operands. -/
def Obligations.CommandCodesAreTheTable : Prop :=
  (∀ op : BitVec 5, op.toNat = 8 * (unitField op).toNat + (fnField op).toNat) ∧
  (∀ f, (encode (.chkSum f)).op = 0x00#5) ∧
  (∀ f, (encode (.chkValidate f)).op = 0x01#5) ∧
  (∀ f, (encode (.chkStamp f)).op = 0x02#5) ∧
  (∀ seq plen payload, (encode (.frmData seq plen payload)).op = 0x08#5) ∧
  (∀ ack, (encode (.frmAck ack)).op = 0x09#5) ∧
  (∀ f, (encode (.frmParse f)).op = 0x0A#5) ∧
  (encode .sndInit).op = 0x10#5 ∧
  (∀ len data, (encode (.sndMsg len data)).op = 0x11#5) ∧
  (∀ f, (encode (.sndAckf f)).op = 0x12#5) ∧
  (encode .sndTimeout).op = 0x13#5 ∧
  (encode .sndFinal).op = 0x14#5 ∧
  (encode .rcvInit).op = 0x18#5 ∧
  (∀ f, (encode (.rcvFrame f)).op = 0x1A#5) ∧
  (encode .rcvFinal).op = 0x1C#5

/-- Commands written out bit by bit from the table of 30_encoding.md R105, one of each shape, decode in the standard
build to the operations they stand for; a frame of 15 bytes and a message of other than `len` bytes are refused by name.
The bytes beside the code are the model's layout (log 5). -/
def Obligations.SampleWordsDecode : Prop :=
  decode Config.standard ⟨0b00001#5, List.replicate 16 0⟩ = .ok (.chkValidate (List.replicate 16 0)) ∧
  decode Config.standard ⟨0b01001#5, [0x78, 0x56, 0x34, 0x12]⟩ = .ok (.frmAck 0x12345678#32) ∧
  decode Config.standard ⟨0b10001#5, [0x03, 0x00, 0x00, 0x00, 0xAA, 0xBB, 0xCC]⟩ =
    .ok (.sndMsg 3#32 [0xAA, 0xBB, 0xCC]) ∧
  decode Config.standard ⟨0b01000#5, [0x04, 0x03, 0x02, 0x01, 0x05, 0x01, 0x00, 0x00, 0x00, 0xAA]⟩ =
    .ok (.frmData 0x01020304#32 5 [0x01, 0x00, 0x00, 0x00, 0xAA]) ∧
  decode Config.standard ⟨0b10011#5, []⟩ = .ok .sndTimeout ∧
  decode Config.standard ⟨0b11100#5, []⟩ = .ok .rcvFinal ∧
  decode Config.standard ⟨0b11010#5, List.replicate 15 0⟩ = .error .operandShape ∧
  decode Config.standard ⟨0b10001#5, [0x02, 0x00, 0x00, 0x00, 0x01]⟩ = .error .operandShape

/-- Decoding the command of a well-formed instruction gives the instruction back, for every operation and every
operand. The operand bytes beside the code are the model's layout (log 5). -/
def Obligations.DecodeOfEncodeIsTheInstruction : Prop :=
  ∀ (c : Config) (i : Instr), i.wf c = true → decode c (encode i) = .ok i

/-- A command that decodes is the command of the instruction it decodes to, and that instruction is well formed:
every command has one meaning. The operand bytes beside the code are the model's layout (log 5). -/
def Obligations.DecodableCommandIsItsEncoding : Prop :=
  ∀ (c : Config) (m : Command) (i : Instr), decode c m = .ok i → i.wf c = true ∧ encode i = m

/-- The reserved codes of 30_encoding.md R106, and no others, select no operation: there is no step, whatever the
operand bytes are. -/
def Obligations.ReservedCodesHaveNoStep : Prop :=
  ∀ (s : State) (m : Command) (rest : List Event),
    s.cfg.legal = true → s.inbox = .command m :: rest →
    (step s = .refused (.undecodable .reservedCode) ↔
      m.op.toNat ∈ [0x03, 0x04, 0x05, 0x06, 0x07, 0x0B, 0x0C, 0x0D, 0x0E, 0x0F, 0x15, 0x16, 0x17,
        0x19, 0x1B, 0x1D, 0x1E, 0x1F])

/-- A step runs the operation of the command at the front of the inbox, on the state with that command taken off
(00_scope.md R3, 60_exceptions.md R266). The inbox is the model's own field (log 4). That a step with no event answers
the same state is the model's choice (log 7), where 44_common_semantics.md R233 says that an idle unit keeps its
state. -/
def Obligations.StepRunsTheFrontCommand : Prop :=
  ∀ s : State, s.cfg.legal = true →
    (s.inbox = [] → step s = .next s) ∧
    (∀ m rest i, s.inbox = .command m :: rest → decode s.cfg m = .ok i →
      step s = exec i { s with inbox := rest }) ∧
    (∀ i rest, i.wf s.cfg = true → s.inbox = .command (encode i) :: rest →
      step s = exec i { s with inbox := rest })

/-- The hardware reset input (70_reset_and_hazards.md R290): both units OFF, the fault registers and `tmr_run` 0,
no output action; nothing is said of any other register, flag or buffer. That the input is an event of the inbox is
the model's choice (log 9). -/
def Obligations.HardResetTurnsBothUnitsOff : Prop :=
  ∀ (s : State) (rest : List Event), s.cfg.legal = true → s.inbox = .hardReset :: rest →
    ∃ t, step s = .next t ∧ t.snd.mode = .off ∧ t.rcv.mode = .off ∧ t.snd.fault = 0 ∧ t.rcv.fault = 0 ∧
      t.snd.tmrRun = false ∧ t.outbox = [] ∧ t.inbox = rest ∧ t.cfg = s.cfg

/-! ## CHK -/

/-- CHK.SUM answers (in `result`, where a caller reads what an operation returns, log 6) the ones' complement of the
folded sum, given by the closed form of 40_checksum.md R133, and changes no state (R131); it is `0xFFFF` exactly when every summed word is zero, `0x0000` exactly when the sum is a
positive multiple of `0xFFFF`, and does not depend on the order of the words. -/
def Obligations.ChkSumAnswersClosedForm : Prop :=
  ∀ (s : State) (f : Frame), f.length = s.cfg.frameSize →
    ∃ v : Half,
      exec (.chkSum f) s = .next { s with outbox := [], result := some (.checksum v) } ∧
      v.toNat = 0xFFFF - closedFold (regionSum s.cfg f) ∧
      (v = 0xFFFF#16 ↔ ∀ w ∈ regionWords s.cfg f, w = 0) ∧
      (v = 0#16 ↔ 0 < regionSum s.cfg f ∧ regionSum s.cfg f % 0xFFFF = 0) ∧
      (∀ g : Frame, g.length = s.cfg.frameSize → (regionWords s.cfg g).Perm (regionWords s.cfg f) →
        exec (.chkSum g) s = exec (.chkSum f) s)

/-- The fold loop of CHK.SUM (40_checksum.md R132): the sum is at most `NWORDS * 0xFFFF`, which is at most
`0x81FF7E`; one fold leaves at most `0x100FE`, a second at most `0xFF`; two rounds always end it. -/
def Obligations.FoldEndsWithinTwoRounds : Prop :=
  ∀ (c : Config) (f : Frame), c.legal = true →
    chkRaw c f ≤ c.nWords * 0xFFFF ∧ c.nWords * 0xFFFF ≤ 0x81FF7E ∧ 0x81FF7E < 2 ^ 24 ∧
    foldOnce (chkRaw c f) ≤ 0x100FE ∧
    (foldOnce (chkRaw c f) >>> 16 ≠ 0 → foldOnce (foldOnce (chkRaw c f)) ≤ 0xFF) ∧
    foldRounds 2 (chkRaw c f) < 2 ^ 16 ∧ foldCarries (chkRaw c f) = foldRounds 2 (chkRaw c f) ∧
    foldOnce 0x1FFFF = 0x10000 ∧ foldOnce 0x10000 = 1

/-- CHK.VALIDATE compares the recomputed checksum with the stored field, exactly (40_checksum.md R134, R135): it
writes no state; with all words zero only stored `0xFFFF` is valid, with a positive multiple of `0xFFFF` only stored
`0x0000`; the all-zero frame is invalid. -/
def Obligations.ChkValidateIsExactComparison : Prop :=
  ∀ (s : State) (f : Frame), f.length = s.cfg.frameSize →
    ∃ ok : Bool,
      exec (.chkValidate f) s = .next { s with outbox := [], result := some (.verdict ok) } ∧
      (ok = true ↔ storedChecksum f = 0xFFFF - closedFold (regionSum s.cfg f)) ∧
      (regionSum s.cfg f = 0 → (ok = true ↔ storedChecksum f = 0xFFFF)) ∧
      (0 < regionSum s.cfg f → regionSum s.cfg f % 0xFFFF = 0 → (ok = true ↔ storedChecksum f = 0)) ∧
      ((∀ k, byteAt f k = 0) → ok = false)

/-- CHK.STAMP writes the checksum into bytes 0 and 1, low byte first, and no other byte (40_checksum.md R136). -/
def Obligations.ChkStampWritesTheChecksumField : Prop :=
  ∀ (s : State) (f : Frame), s.cfg.legal = true → f.length = s.cfg.frameSize →
    ∃ g : Frame,
      exec (.chkStamp f) s = .next { s with outbox := [], result := some (.frame g) } ∧
      g.length = f.length ∧ (∀ k, 2 ≤ k → byteAt g k = byteAt f k) ∧
      storedChecksum g = 0xFFFF - closedFold (regionSum s.cfg f)

/-- A stamped frame validates, for every frame (40_checksum.md R137). -/
def Obligations.StampedFrameValidates : Prop :=
  ∀ (s : State) (f : Frame), s.cfg.legal = true → f.length = s.cfg.frameSize →
    ∃ g : Frame,
      exec (.chkStamp f) s = .next { s with outbox := [], result := some (.frame g) } ∧
      exec (.chkValidate g) s = .next { s with outbox := [], result := some (.verdict true) }

/-- Changing exactly one bit of a valid frame, at any bit of any byte, makes it invalid (40_checksum.md R138). -/
def Obligations.SingleBitChangeIsDetected : Prop :=
  ∀ (s : State) (f : Frame) (k j : Nat), s.cfg.legal = true → f.length = s.cfg.frameSize →
    k < s.cfg.frameSize → j < 8 →
    exec (.chkValidate f) s = .next { s with outbox := [], result := some (.verdict true) } →
    exec (.chkValidate (f.set k (byteAt f k ^^^ BitVec.ofNat 8 (2 ^ j)))) s =
      .next { s with outbox := [], result := some (.verdict false) }

/-- What CHK does not detect (40_checksum.md R139): with the checksum field as it was, a changed frame validates
exactly when the sum stays the same modulo `0xFFFF` and stays zero or stays positive. -/
def Obligations.UndetectedChangesKeepTheSum : Prop :=
  ∀ (c : Config) (f g : Frame), storedChecksum g = storedChecksum f → chkValidate c f = true →
    (chkValidate c g = true ↔
      regionSum c g % 0xFFFF = regionSum c f % 0xFFFF ∧ (regionSum c g = 0 ↔ regionSum c f = 0))

/-! ## FRM -/

/-- FRM.DATA, on every operand (41_framer.md R151): the layout of 30_encoding.md R90 with the sequence number, `plen`,
the bytes of `payload`, `PAD` after them, stamped last. That it runs where the rule's preconditions fail, with the
bytes the rule does not state free, is the model's choice (log 19): of these only the frame's other bytes are said. -/
def Obligations.FrmDataBuildsTheLayout : Prop :=
  ∀ (s : State) (seq : Word) (plen : Byte) (payload : List Byte), s.cfg.legal = true →
    ∃ g : Frame,
      exec (.frmData seq plen payload) s = .next { s with outbox := [], result := some (.frame g) } ∧
      g.length = s.cfg.frameSize ∧
      (∀ k, k < 4 → byteAt g (2 + k) = BitVec.ofNat 8 (seq.toNat / 2 ^ (8 * k))) ∧
      byteAt g 6 = plen ∧
      (plen.toNat ≤ s.cfg.maxPayload →
        (∀ k, k < plen.toNat → k < payload.length → byteAt g (7 + k) = byteAt payload k) ∧
        (∀ k, 7 + plen.toNat ≤ k → k < s.cfg.frameSize → byteAt g k = s.cfg.pad)) ∧
      storedChecksum g = 0xFFFF - closedFold (regionSum s.cfg g)

/-- FRM.ACK builds the layout with every byte from offset 6 on `PAD`, for every acknowledgment number, and stamps
last (41_framer.md R153). -/
def Obligations.FrmAckBuildsTheLayout : Prop :=
  ∀ (s : State) (ack : Word), s.cfg.legal = true →
    ∃ g : Frame,
      exec (.frmAck ack) s = .next { s with outbox := [], result := some (.frame g) } ∧
      g.length = s.cfg.frameSize ∧
      (∀ k, k < 4 → byteAt g (2 + k) = BitVec.ofNat 8 (ack.toNat / 2 ^ (8 * k))) ∧
      (∀ k, 6 ≤ k → k < s.cfg.frameSize → byteAt g k = s.cfg.pad) ∧
      storedChecksum g = 0xFFFF - closedFold (regionSum s.cfg g)

/-- FRM.PARSE reads the fields as 30_encoding.md R96 assembles them, is total on every frame and checks nothing
(41_framer.md R155). -/
def Obligations.FrmParseReadsTheFields : Prop :=
  ∀ (s : State) (f : Frame), f.length = s.cfg.frameSize →
    ∃ p : Fields,
      exec (.frmParse f) s = .next { s with outbox := [], result := some (.fields p) } ∧
      p.chk.toNat = (byteAt f 0).toNat + 2 ^ 8 * (byteAt f 1).toNat ∧
      p.seq.toNat = (byteAt f 2).toNat + 2 ^ 8 * (byteAt f 3).toNat + 2 ^ 16 * (byteAt f 4).toNat +
        2 ^ 24 * (byteAt f 5).toNat ∧
      p.plen = byteAt f 6 ∧ p.payload.length = s.cfg.maxPayload ∧
      (∀ k, byteAt p.payload k = byteAt f (7 + k)) ∧
      (le32 p.payload 0).toNat = (byteAt f 7).toNat + 2 ^ 8 * (byteAt f 8).toNat +
        2 ^ 16 * (byteAt f 9).toNat + 2 ^ 24 * (byteAt f 10).toNat

/-- Build then parse (41_framer.md R156): a data frame parses to what it was built from, its padding appended; an
ACK frame parses to its acknowledgment number. -/
def Obligations.ParseOfBuiltFrame : Prop :=
  ∀ (s : State), s.cfg.legal = true →
    (∀ (seq : Word) (plen : Byte) (payload : List Byte), plen.toNat ≤ s.cfg.maxPayload →
      payload.length = plen.toNat →
      ∃ (g : Frame) (v : Half),
        exec (.frmData seq plen payload) s = .next { s with outbox := [], result := some (.frame g) } ∧
        exec (.chkSum g) s = .next { s with outbox := [], result := some (.checksum v) } ∧
        exec (.frmParse g) s = .next { s with
          outbox := []
          result := some (.fields
            ⟨v, seq, plen, payload ++ List.replicate (s.cfg.maxPayload - plen.toNat) s.cfg.pad⟩) }) ∧
    (∀ ack : Word, ∃ (g : Frame) (p : Fields),
      exec (.frmAck ack) s = .next { s with outbox := [], result := some (.frame g) } ∧
      exec (.frmParse g) s = .next { s with outbox := [], result := some (.fields p) } ∧ p.seq = ack)

/-! ## SND -/

/-- SND.INIT, in every mode (42_sender.md R171): every register at its after-INIT value, the window not cleared, a
running timer stopped, nothing else changed. That the window keeps its bytes, which the spec also calls unspecified, is
the model's reading (log 10). -/
def Obligations.SndInitGivesFreshSender : Prop :=
  ∀ s : State,
    exec .sndInit s = .next { s with
      snd := {
        mode := .ready, fault := 0
        ackExpected := 0, nextSeq := 0, nextToTransmit := 0, nbuffered := 0
        msgNext := 0, curMsgSeq := 0, curOff := 0, tmrRun := false
        q := [], win := s.snd.win }
      outbox := if s.snd.tmrRun then [.stopTimer] else []
      result := none }

/-- The two precise faults of SND.MSG and their order (42_sender.md R172, 60_exceptions.md R252, R254, R267):
nothing changes but the mode and the fault register. That the report carries its `info` is the model's choice
(log 14). -/
def Obligations.SndMsgFaultsArePrecise : Prop :=
  ∀ (s : State) (len : Word) (data : List Byte), s.snd.mode = .ready → data.length = len.toNat →
    (s.cfg.msgMax < len.toNat →
      exec (.sndMsg len data) s = .next { s with
        snd := { s.snd with mode := .halted, fault := 0x03 }
        outbox := [.fault ⟨.msgTooLong, len⟩], result := none }) ∧
    (len.toNat ≤ s.cfg.msgMax → s.snd.q.length = s.cfg.queueCap →
      exec (.sndMsg len data) s = .next { s with
        snd := { s.snd with mode := .halted, fault := 0x01 }
        outbox := [.fault ⟨.capacityExceeded, s.snd.msgNext⟩], result := none })

/-- SND.MSG while the timer runs (42_sender.md R172 corner case (a), 70_reset_and_hazards.md R314): the message
joins the queue with the next message number and waits; nothing is sent. -/
def Obligations.MessageWaitsBehindRunningTimer : Prop :=
  ∀ (s : State) (len : Word) (data : List Byte), s.snd.mode = .ready → data.length = len.toNat →
    len.toNat ≤ s.cfg.msgMax → s.snd.q.length ≠ s.cfg.queueCap → s.snd.tmrRun = true →
    exec (.sndMsg len data) s = .next { s with
      snd := { s.snd with q := s.snd.q ++ [⟨s.snd.msgNext, len, data⟩], msgNext := s.snd.msgNext + 1 }
      outbox := [], result := none }

/-- Segmentation (42_sender.md R178, R172, R176): an idle sender with nothing waiting and room in its window cuts a
message of any length into `1 + ceil(max(0, L - (MAXP - 4)) / MAXP)` data frames with consecutive numbers, the first
with the length prefix, and sends them in order after starting the timer. -/
def Obligations.IdleSenderSegmentsTheMessage : Prop :=
  ∀ (s : State) (len : Word) (data : List Byte), s.Inv → s.snd.mode = .ready → s.snd.tmrRun = false →
    s.snd.q = [] → data.length = len.toNat → len.toNat ≤ s.cfg.msgMax →
    fragmentCount s.cfg len.toNat ≤ s.cfg.window →
    s.snd.nextSeq.toNat + fragmentCount s.cfg len.toNat ≤ 0xFFFFFFFF →
    ∃ t, exec (.sndMsg len data) s = .next t ∧
      t.outbox = .startTimer s.cfg.timeout ::
        (List.range (fragmentCount s.cfg len.toNat)).map (fun k =>
          .sendFrame (frmData s.cfg (s.snd.nextSeq + BitVec.ofNat 32 k)
            (BitVec.ofNat 8 (fragmentPayload s.cfg len data k).length) (fragmentPayload s.cfg len data k))) ∧
      (∀ k, k < fragmentCount s.cfg len.toNat →
        (fragmentPayload s.cfg len data k).length ≤ s.cfg.maxPayload) ∧
      t.snd = { s.snd with
        nextSeq := s.snd.nextSeq + BitVec.ofNat 32 (fragmentCount s.cfg len.toNat)
        nextToTransmit := s.snd.nextSeq + BitVec.ofNat 32 (fragmentCount s.cfg len.toNat)
        nbuffered := fragmentCount s.cfg len.toNat
        msgNext := s.snd.msgNext + 1, curMsgSeq := s.snd.curMsgSeq + 1
        tmrRun := true, win := t.snd.win }

/-- SND.MSG at an idle timer fills the window (42_sender.md R172, R176, R177): the timer is started, as many frames
are cut as the window or the queue allows, each is sent once in ascending order, and the sender stays READY while the
sequence space is not at its end. -/
def Obligations.IdleSenderFillsTheWindow : Prop :=
  ∀ (s : State) (len : Word) (data : List Byte), s.Inv → s.snd.mode = .ready → s.snd.tmrRun = false →
    data.length = len.toNat → len.toNat ≤ s.cfg.msgMax → s.snd.q.length ≠ s.cfg.queueCap →
    s.snd.nextSeq.toNat + s.cfg.window ≤ 0xFFFFFFFF →
    ∃ t, exec (.sndMsg len data) s = .next t ∧ t.snd.mode = .ready ∧ t.snd.tmrRun = true ∧
      t.snd.msgNext = s.snd.msgNext + 1 ∧ t.snd.ackExpected = s.snd.ackExpected ∧
      s.snd.nextSeq.toNat < t.snd.nextSeq.toNat ∧
      (t.snd.q = [] ∨ t.snd.nbuffered = s.cfg.window) ∧
      t.outbox = .startTimer s.cfg.timeout :: sends s.cfg t.snd s.snd.nextSeq t.snd.nextSeq

/-- `SeqExhausted` (42_sender.md R176, 60_exceptions.md R253, R262): the sender halts before it assigns `0xFFFFFFFF`.
Entered with that number next, SND.MSG only starts the timer and enqueues. Raised in the middle of WINDOW_FILL, where
more fragments are unsent and fit the window than numbers are left, the frames assigned stand in the window, none of
them is sent, and the output is the timer and the report alone: by SND.MSG, with the message enqueued, and by SND.ACKF,
with the release standing and no stop test. That the report carries its `info` is the model's choice (log 14). -/
def Obligations.SenderHaltsBeforeReservedNumber : Prop :=
  ∀ s : State, s.snd.mode = .ready →
    (∀ (len : Word) (data : List Byte), s.snd.tmrRun = false → data.length = len.toNat →
      len.toNat ≤ s.cfg.msgMax → s.snd.q.length ≠ s.cfg.queueCap →
      let u : Snd := { s.snd with
        q := s.snd.q ++ [⟨s.snd.msgNext, len, data⟩], msgNext := s.snd.msgNext + 1, tmrRun := true }
      let out : List Action := [.startTimer s.cfg.timeout, .fault ⟨.seqExhausted, 0xFFFFFFFF#32⟩]
      (s.snd.nextSeq = 0xFFFFFFFF#32 → s.snd.nbuffered < s.cfg.window →
        exec (.sndMsg len data) s = .next { s with
          snd := { u with mode := .halted, fault := 0x02 }, outbox := out, result := none }) ∧
      (s.Inv → u.numbersLeft < u.unsentFragments s.cfg → u.nbuffered + u.numbersLeft < s.cfg.window →
        ∃ u', exec (.sndMsg len data) s = .next { s with snd := u', outbox := out, result := none } ∧
          u.Exhausted s.cfg u')) ∧
    (∀ f : Frame, s.Inv → f.length = s.cfg.frameSize → chkValidate s.cfg f = true →
      s.snd.ackExpected.toNat ≤ (le32 f 2).toNat → (le32 f 2).toNat < s.snd.nextSeq.toNat →
      let u : Snd := { s.snd with
        ackExpected := le32 f 2 + 1
        nbuffered := s.snd.nbuffered - ((le32 f 2).toNat - s.snd.ackExpected.toNat + 1), tmrRun := true }
      u.numbersLeft < u.unsentFragments s.cfg → u.nbuffered + u.numbersLeft < s.cfg.window →
      ∃ u', exec (.sndAckf f) s = .next { s with
          snd := u'
          outbox := [.startTimer s.cfg.timeout, .fault ⟨.seqExhausted, 0xFFFFFFFF#32⟩]
          result := none } ∧
        u.Exhausted s.cfg u')

/-- SND.ACKF on an in-range acknowledgment with no message waiting (42_sender.md R173): the acknowledged frames are
released at once, the timer restarts, and it stops exactly when nothing is outstanding. -/
def Obligations.AckReleasesItsFrames : Prop :=
  ∀ (s : State) (f : Frame), s.snd.mode = .ready → f.length = s.cfg.frameSize →
    chkValidate s.cfg f = true → s.snd.q = [] → s.snd.nextToTransmit = s.snd.nextSeq →
    s.snd.ackExpected.toNat ≤ (le32 f 2).toNat → (le32 f 2).toNat < s.snd.nextSeq.toNat →
    exec (.sndAckf f) s = .next { s with
      snd := { s.snd with
        ackExpected := le32 f 2 + 1
        nbuffered := s.snd.nbuffered - ((le32 f 2).toNat - s.snd.ackExpected.toNat + 1)
        tmrRun := le32 f 2 + 1 != s.snd.nextSeq }
      outbox := .startTimer s.cfg.timeout ::
        (if le32 f 2 + 1 = s.snd.nextSeq then [.stopTimer] else [])
      result := none }

/-- SND.ACKF on an in-range acknowledgment slides the window and refills it (42_sender.md R173 corner cases (d) to
(f), R176): new frames are cut as far as the window or the queue allows and sent once, and the stop test is made after
the fill, so the timer runs exactly while frames are outstanding. -/
def Obligations.AckSlidesAndRefillsTheWindow : Prop :=
  ∀ (s : State) (f : Frame), s.Inv → s.snd.mode = .ready → f.length = s.cfg.frameSize →
    chkValidate s.cfg f = true →
    s.snd.ackExpected.toNat ≤ (le32 f 2).toNat → (le32 f 2).toNat < s.snd.nextSeq.toNat →
    s.snd.nextSeq.toNat + s.cfg.window ≤ 0xFFFFFFFF →
    ∃ t, exec (.sndAckf f) s = .next t ∧ t.snd.mode = .ready ∧
      t.snd.ackExpected.toNat = (le32 f 2).toNat + 1 ∧ t.snd.msgNext = s.snd.msgNext ∧
      s.snd.nextSeq.toNat ≤ t.snd.nextSeq.toNat ∧
      (t.snd.q = [] ∨ t.snd.nbuffered = s.cfg.window) ∧
      (t.snd.tmrRun = true ↔ t.snd.ackExpected ≠ t.snd.nextSeq) ∧
      t.outbox = .startTimer s.cfg.timeout :: sends s.cfg t.snd s.snd.nextSeq t.snd.nextSeq ++
        (if t.snd.ackExpected = t.snd.nextSeq then [.stopTimer] else [])

/-- SND.TIMEOUT (42_sender.md R174): enabled only in READY with the timer running; it restarts the timer and sends
every frame from `ack_expected` to `next_seq - 1` again, in order, as stored; nothing else changes. In a state of
10_state.md R30 at least one frame is sent, and each is the valid frame of its number. -/
def Obligations.TimeoutResendsTheWindow : Prop :=
  ∀ s : State,
    (s.snd.mode = .ready → s.snd.tmrRun = true →
      exec .sndTimeout s = .next { s with
        snd := { s.snd with nextToTransmit := s.snd.nextSeq }
        outbox := .startTimer s.cfg.timeout :: sends s.cfg s.snd s.snd.ackExpected s.snd.nextSeq
        result := none }) ∧
    (s.Inv → s.snd.mode = .ready → s.snd.tmrRun = true →
      s.snd.ackExpected.toNat < s.snd.nextSeq.toNat ∧
      ∀ k, k < s.snd.nextSeq.toNat - s.snd.ackExpected.toNat → ∃ f,
        (sends s.cfg s.snd s.snd.ackExpected s.snd.nextSeq)[k]? = some (.sendFrame f) ∧
        chkValidate s.cfg f = true ∧ (le32 f 2).toNat = s.snd.ackExpected.toNat + k) ∧
    (s.snd.mode = .ready → s.snd.tmrRun = false → exec .sndTimeout s = .refused .timeoutNotEnabled) ∧
    (s.snd.mode = .halted → exec .sndTimeout s = .refused .timeoutNotEnabled) ∧
    (s.snd.mode = .off → exec .sndTimeout s = .refused .unitOff)

/-- SND.FINAL (42_sender.md R175): enabled in READY and in HALTED; a running timer is stopped, the queue is emptied,
the mode is OFF, the fault register keeps its value, no frame is sent; nothing is said of any other register. -/
def Obligations.SndFinalTurnsTheSenderOff : Prop :=
  ∀ s : State,
    (s.snd.mode ≠ .off → ∃ t, exec .sndFinal s = .next t ∧
      t.snd.mode = .off ∧ t.snd.tmrRun = false ∧ t.snd.q = [] ∧ t.snd.fault = s.snd.fault ∧
      t.outbox = (if s.snd.tmrRun then [.stopTimer] else []) ∧ t.result = none ∧
      t.rcv = s.rcv ∧ t.cfg = s.cfg ∧ t.inbox = s.inbox) ∧
    (s.snd.mode = .off → exec .sndFinal s = .refused .unitOff)

/-- The frame of the SND operations: RCV, the build and the inbox are unchanged; SND.MSG leaves `ack_expected` and
SND.ACKF leaves `msg_next` as they were; the queue only loses entries at its head, and SND.MSG adds one at its tail;
SND.INIT, SND.TIMEOUT and SND.FINAL write no window slot, and SND.MSG and SND.ACKF write only the slots `s mod W` of
the numbers `s` they assign (42_sender.md sections 1 to 6, 20_memory.md section 1). That INIT and FINAL leave the
window's bytes as they are is the model's reading (log 10). -/
def Obligations.SenderOperationsFrame : Prop :=
  ∀ (i : Instr) (s t : State), ownerOf i = some .snd → exec i s = .next t →
    t.rcv = s.rcv ∧ t.cfg = s.cfg ∧ t.inbox = s.inbox ∧ t.rcvFree = s.rcvFree ∧ t.result = none ∧
    (i = .sndInit ∨ i = .sndTimeout ∨ i = .sndFinal → t.snd.win = s.snd.win) ∧
    (∀ len data, i = .sndMsg len data →
      t.snd.ackExpected = s.snd.ackExpected ∧ t.sndFree = s.sndFree ∧
      ((t.snd.q = s.snd.q ∧ t.snd.msgNext = s.snd.msgNext) ∨
        (t.snd.q <:+ s.snd.q ++ [⟨s.snd.msgNext, len, data⟩] ∧ t.snd.msgNext = s.snd.msgNext + 1))) ∧
    (∀ f, i = .sndAckf f →
      t.snd.msgNext = s.snd.msgNext ∧ t.sndFree = s.sndFree ∧ t.snd.q <:+ s.snd.q ∧
      (t.snd.ackExpected = s.snd.ackExpected ∨ t.snd.ackExpected = le32 f 2 + 1)) ∧
    (i ≠ .sndInit → i ≠ .sndFinal →
      s.snd.nextSeq.toNat ≤ t.snd.nextSeq.toNat ∧
      ∀ k, (∀ n, s.snd.nextSeq.toNat ≤ n → n < t.snd.nextSeq.toNat → n % s.cfg.window ≠ k) →
        Store.read (blankFrame s.cfg) t.snd.win k = Store.read (blankFrame s.cfg) s.snd.win k)

/-- Window bound and monotonicity (42_sender.md R179): `nbuffered <= W`, `ack_expected` never decreases over an
instance, and no data frame is emitted whose number is `ack_expected + W` or more. -/
def Obligations.SenderStaysInsideItsWindow : Prop :=
  ∀ (i : Instr) (s t : State), s.Inv → s.snd.mode = .ready → ownerOf i = some .snd →
    i ≠ .sndInit → i ≠ .sndFinal → exec i s = .next t →
    t.snd.nbuffered ≤ s.cfg.window ∧ s.snd.ackExpected.toNat ≤ t.snd.ackExpected.toNat ∧
    ∀ f, Action.sendFrame f ∈ t.outbox → (le32 f 2).toNat < t.snd.ackExpected.toNat + s.cfg.window

/-- What SND never does (42_sender.md R181): it emits only `StartTimer(TIMEOUT)`, `StopTimer`, data frames FRM.DATA
built and its own faults, never a delivery; on a message or an acknowledgment it sends only frames it has not sent
before. -/
def Obligations.SenderEmitsOnlyItsOwnActions : Prop :=
  ∀ (i : Instr) (s t : State), ownerOf i = some .snd → exec i s = .next t →
    (∀ a ∈ t.outbox, a = .startTimer s.cfg.timeout ∨ a = .stopTimer ∨ (∃ f, a = .sendFrame f) ∨
      ∃ r, a = .fault r ∧ r.cause ≠ .rxMalformed) ∧
    (s.Inv → s.snd.mode = .ready → ∀ f, Action.sendFrame f ∈ t.outbox →
      (∃ seq plen payload, seq ≠ noneYet ∧ plen.toNat ≤ s.cfg.maxPayload ∧
        payload.length = plen.toNat ∧ f = frmData s.cfg seq plen payload) ∧
      (i ≠ .sndTimeout → s.snd.nextSeq.toNat ≤ (le32 f 2).toNat))

/-! ## Recoverable conditions -/

/-- `Corruption` (60_exceptions.md R255): in both units a frame that fails validation ends the operation with no
state change and no output, whatever its fields say. -/
def Obligations.CorruptedFramesAreDropped : Prop :=
  ∀ (s : State) (f : Frame), f.length = s.cfg.frameSize → chkValidate s.cfg f = false →
    (s.snd.mode = .ready → exec (.sndAckf f) s = .next { s with outbox := [], result := none }) ∧
    (s.rcv.mode = .ready → exec (.rcvFrame f) s = .next { s with outbox := [], result := none })

/-- `StaleAck` (60_exceptions.md R257): an acknowledgment outside `[ack_expected, next_seq)` changes nothing and
emits nothing; the timer is neither restarted nor stopped. -/
def Obligations.StaleAcknowledgmentsAreIgnored : Prop :=
  ∀ (s : State) (f : Frame), s.snd.mode = .ready → f.length = s.cfg.frameSize →
    chkValidate s.cfg f = true →
    (le32 f 2).toNat < s.snd.ackExpected.toNat ∨ s.snd.nextSeq.toNat ≤ (le32 f 2).toNat →
    exec (.sndAckf f) s = .next { s with outbox := [], result := none }

/-- `OutOfWindow` (60_exceptions.md R256, 43_receiver.md R212): a valid frame below `expected`, at `expected + W` or
beyond, or numbered `0xFFFFFFFF`, draws one acknowledgment for `expected - 1`; no state changes. -/
def Obligations.OutOfWindowFramesAreNudged : Prop :=
  ∀ (s : State) (f : Frame), s.rcv.mode = .ready → f.length = s.cfg.frameSize →
    chkValidate s.cfg f = true →
    (le32 f 2).toNat < s.rcv.expected.toNat ∨ s.rcv.expected.toNat + s.cfg.window ≤ (le32 f 2).toNat ∨
      le32 f 2 = 0xFFFFFFFF#32 →
    exec (.rcvFrame f) s = .next { s with
      outbox := [.sendFrame (frmAck s.cfg (s.rcv.expected - 1))], result := none }

/-! ## RCV -/

/-- RCV.INIT, in every mode (43_receiver.md R211): every register and flag at its after-INIT value, `rwin` and
`asm_buf` not cleared, no output, nothing else changed. That the stores keep their bytes, which the spec also calls
unspecified, is the model's reading (log 10). -/
def Obligations.RcvInitGivesFreshReceiver : Prop :=
  ∀ s : State,
    exec .rcvInit s = .next { s with
      rcv := {
        mode := .ready, fault := 0
        expected := 0, asmActive := false, asmSize := 0, asmOff := 0, occ := []
        rwin := s.rcv.rwin, asmBuf := s.rcv.asmBuf }
      outbox := [], result := none }

/-- RCV.FRAME on an in-window frame that is not the expected one (43_receiver.md R212): it is stored whole in slot
`seq mod W`, the slot is marked, nothing else changes, and with `ACK_ON_BUFFER = 1` one acknowledgment for
`expected - 1` is sent. -/
def Obligations.OutOfOrderFramesAreBuffered : Prop :=
  ∀ (s : State) (f : Frame), s.rcv.mode = .ready → f.length = s.cfg.frameSize →
    chkValidate s.cfg f = true →
    s.rcv.expected.toNat < (le32 f 2).toNat → (le32 f 2).toNat < s.rcv.expected.toNat + s.cfg.window →
    le32 f 2 ≠ 0xFFFFFFFF#32 →
    exec (.rcvFrame f) s = .next { s with
      rcv := { s.rcv with
        rwin := Store.write (blankFrame s.cfg) s.rcv.rwin ((le32 f 2).toNat % s.cfg.window) f
        occ := Store.write false s.rcv.occ ((le32 f 2).toNat % s.cfg.window) true }
      outbox := if s.cfg.ackOnBuffer then [.sendFrame (frmAck s.cfg (s.rcv.expected - 1))] else []
      result := none }

/-- RCV.FRAME on the expected frame, read as a first fragment, with nothing buffered behind it (43_receiver.md R212,
R214, R215): the accumulator opens with the declared size and the fragment's bytes, or the whole message is delivered
at once, and one acknowledgment for the frame is sent. Only `asm_buf[0, n)` and the frame's slot are written: that the
other bytes of `asm_buf`, and all of them after a delivery, are kept is the model's reading (log 10). -/
def Obligations.FirstFragmentOpensTheMessage : Prop :=
  ∀ (s : State) (f : Frame), s.Inv → s.rcv.mode = .ready → f.length = s.cfg.frameSize →
    chkValidate s.cfg f = true → le32 f 2 = s.rcv.expected → s.rcv.expected ≠ 0xFFFFFFFF#32 →
    s.rcv.occAt s.cfg (s.rcv.expected + 1) = false → s.rcv.asmActive = false →
    ¬ Malformed s.cfg s.rcv f →
    let n := (byteAt f 6).toNat - 4
    ∃ t, exec (.rcvFrame f) s = .next t ∧ t.rcv.mode = .ready ∧ t.rcv.fault = s.rcv.fault ∧
      t.rcv.expected = s.rcv.expected + 1 ∧ t.snd = s.snd ∧
      (∀ k, Store.read false t.rcv.occ k = Store.read false s.rcv.occ k) ∧
      (∀ k, k ≠ slotOf s.cfg s.rcv.expected →
        Store.read (blankFrame s.cfg) t.rcv.rwin k = Store.read (blankFrame s.cfg) s.rcv.rwin k) ∧
      (∀ a, t.rcv.asmBuf.read a = if a < n then byteAt f (11 + a) else s.rcv.asmBuf.read a) ∧
      (n < (le32 f 7).toNat →
        t.rcv.asmActive = true ∧ t.rcv.asmSize = le32 f 7 ∧ t.rcv.asmOff.toNat = n ∧
        t.outbox = [.sendFrame (frmAck s.cfg s.rcv.expected)]) ∧
      (n = (le32 f 7).toNat →
        t.rcv.asmActive = false ∧ t.rcv.asmSize = 0 ∧ t.rcv.asmOff = 0 ∧
        t.outbox = [.deliverMessage (le32 f 7) ((f.drop 11).take n),
          .sendFrame (frmAck s.cfg s.rcv.expected)])

/-- RCV.FRAME on the expected frame, read as a continuation, with nothing buffered behind it (43_receiver.md R212,
R214, R215): its bytes are appended at the write offset; a message that is complete is delivered whole and the
accumulator is Idle again; one acknowledgment for the frame is sent. Only `asm_buf[asm_off, asm_off + plen)` and the
frame's slot are written: that the bytes beyond, and all of them after a delivery, are kept is the model's reading
(log 10). -/
def Obligations.ContinuationExtendsTheMessage : Prop :=
  ∀ (s : State) (f : Frame), s.Inv → s.rcv.mode = .ready → f.length = s.cfg.frameSize →
    chkValidate s.cfg f = true → le32 f 2 = s.rcv.expected → s.rcv.expected ≠ 0xFFFFFFFF#32 →
    s.rcv.occAt s.cfg (s.rcv.expected + 1) = false → s.rcv.asmActive = true →
    ¬ Malformed s.cfg s.rcv f →
    let n := (byteAt f 6).toNat
    let off := s.rcv.asmOff.toNat
    ∃ t, exec (.rcvFrame f) s = .next t ∧ t.rcv.mode = .ready ∧ t.rcv.fault = s.rcv.fault ∧
      t.rcv.expected = s.rcv.expected + 1 ∧ t.snd = s.snd ∧
      (∀ k, Store.read false t.rcv.occ k = Store.read false s.rcv.occ k) ∧
      (∀ k, k ≠ slotOf s.cfg s.rcv.expected →
        Store.read (blankFrame s.cfg) t.rcv.rwin k = Store.read (blankFrame s.cfg) s.rcv.rwin k) ∧
      (∀ a, t.rcv.asmBuf.read a =
        if off ≤ a ∧ a < off + n then byteAt f (7 + (a - off)) else s.rcv.asmBuf.read a) ∧
      (off + n < s.rcv.asmSize.toNat →
        t.rcv.asmActive = true ∧ t.rcv.asmSize = s.rcv.asmSize ∧ t.rcv.asmOff.toNat = off + n ∧
        t.outbox = [.sendFrame (frmAck s.cfg s.rcv.expected)]) ∧
      (off + n = s.rcv.asmSize.toNat →
        t.rcv.asmActive = false ∧ t.rcv.asmSize = 0 ∧ t.rcv.asmOff = 0 ∧
        t.outbox = [.deliverMessage s.rcv.asmSize
            (s.rcv.asmBuf.readBytes 0 off ++ (f.drop 7).take n),
          .sendFrame (frmAck s.cfg s.rcv.expected)])

/-- `RxMalformed` (43_receiver.md R214, R215, 60_exceptions.md R258, R262): a frame that fails one of the six tests of
CONSUME halts the receiver, with no acknowledgment. The expected frame in hand: its slot is free again, `expected` and
the accumulator are as they were. A frame `e` buffered before and met in the drain: the receiver stops as it would
have stopped had `e` not been there, with the advances and deliveries made before it, but for the halt and the report
in place of the acknowledgment. And no other frame halts it: a halted receiver names in `expected` a malformed frame
whose flag is clear. That the report carries its `info` is the model's choice (log 14). -/
def Obligations.MalformedFrameHaltsTheReceiver : Prop :=
  ∀ (s : State) (f : Frame), s.Inv → s.rcv.mode = .ready → f.length = s.cfg.frameSize →
    (chkValidate s.cfg f = true → le32 f 2 = s.rcv.expected → s.rcv.expected ≠ 0xFFFFFFFF#32 →
      Malformed s.cfg s.rcv f →
      exec (.rcvFrame f) s = .next { s with
        rcv := { s.rcv with
          mode := .halted, fault := 0x11
          rwin := Store.write (blankFrame s.cfg) s.rcv.rwin (slotOf s.cfg s.rcv.expected) f }
        outbox := [.fault ⟨.rxMalformed, s.rcv.expected⟩], result := none }) ∧
    (∀ (e : Word) (t : State), chkValidate s.cfg f = true → le32 f 2 = s.rcv.expected →
      s.rcv.expected.toNat < e.toNat → e.toNat < s.rcv.expected.toNat + s.cfg.window →
      s.rcv.occAt s.cfg e = true →
      exec (.rcvFrame f) { s with rcv := s.rcv.setOcc s.cfg e false } = .next t →
      t.rcv.mode = .ready → t.rcv.expected = e → Malformed s.cfg t.rcv (s.rcv.rwinAt s.cfg e) →
      exec (.rcvFrame f) s = .next { t with
        rcv := { t.rcv with mode := .halted, fault := 0x11 }
        outbox := t.outbox.dropLast ++ [.fault ⟨.rxMalformed, e⟩] }) ∧
    (∀ t : State, exec (.rcvFrame f) s = .next t → t.rcv.mode = .halted →
      t.rcv.fault = 0x11 ∧ t.rcv.occAt s.cfg t.rcv.expected = false ∧
      le32 (t.rcv.rwinAt s.cfg t.rcv.expected) 2 = t.rcv.expected ∧
      Malformed s.cfg t.rcv (t.rcv.rwinAt s.cfg t.rcv.expected) ∧
      ∃ before, t.outbox = before ++ [.fault ⟨.rxMalformed, t.rcv.expected⟩] ∧
        ∀ a ∈ before, ∃ len data, a = .deliverMessage len data)

/-- RCV.FINAL (43_receiver.md R213): enabled in READY and in HALTED; every flag is clear, a partial message is
dropped, the mode is OFF, the fault register keeps its value, nothing is emitted; nothing is said of any other
register. -/
def Obligations.RcvFinalTurnsTheReceiverOff : Prop :=
  ∀ s : State,
    (s.rcv.mode ≠ .off → ∃ t, exec .rcvFinal s = .next t ∧
      t.rcv.mode = .off ∧ (∀ k, Store.read false t.rcv.occ k = false) ∧ t.rcv.asmActive = false ∧
      t.rcv.fault = s.rcv.fault ∧ t.outbox = [] ∧ t.result = none ∧
      t.snd = s.snd ∧ t.cfg = s.cfg ∧ t.inbox = s.inbox) ∧
    (s.rcv.mode = .off → exec .rcvFinal s = .refused .unitOff)

/-- The frame of the RCV operations: SND, the build and the inbox are unchanged; RCV.INIT and RCV.FINAL write no slot
of `rwin` and no byte of `asm_buf`; RCV.FRAME writes at most the slot `seq mod W` of the frame in hand, and unless that
frame is valid and the expected one it leaves `expected`, the accumulator and `asm_buf` alone (43_receiver.md sections 1
to 4, 20_memory.md section 1). That INIT and FINAL leave the stores' bytes as they are is the model's reading
(log 10). -/
def Obligations.ReceiverOperationsFrame : Prop :=
  ∀ (i : Instr) (s t : State), ownerOf i = some .rcv → exec i s = .next t →
    t.snd = s.snd ∧ t.cfg = s.cfg ∧ t.inbox = s.inbox ∧ t.sndFree = s.sndFree ∧ t.result = none ∧
    (i = .rcvInit ∨ i = .rcvFinal → t.rcv.rwin = s.rcv.rwin ∧ t.rcv.asmBuf = s.rcv.asmBuf) ∧
    (∀ f, i = .rcvFrame f →
      t.rcvFree = s.rcvFree ∧
      (∀ k, k ≠ (le32 f 2).toNat % s.cfg.window →
        Store.read (blankFrame s.cfg) t.rcv.rwin k = Store.read (blankFrame s.cfg) s.rcv.rwin k) ∧
      (¬ (chkValidate s.cfg f = true ∧ le32 f 2 = s.rcv.expected) →
        t.rcv.expected = s.rcv.expected ∧ t.rcv.asmActive = s.rcv.asmActive ∧
        t.rcv.asmSize = s.rcv.asmSize ∧ t.rcv.asmOff = s.rcv.asmOff ∧ t.rcv.asmBuf = s.rcv.asmBuf ∧
        t.rcv.mode = s.rcv.mode ∧ t.rcv.fault = s.rcv.fault))

/-- The acknowledgment number (43_receiver.md R216): every acknowledgment RCV sends carries `expected - 1` modulo
`2^32` with the value `expected` has when it is built, so `0xFFFFFFFF` while nothing has been consumed. -/
def Obligations.AcknowledgmentsNameTheLastConsumed : Prop :=
  ∀ (s t : State) (f g : Frame), s.cfg.legal = true → exec (.rcvFrame f) s = .next t →
    Action.sendFrame g ∈ t.outbox →
    g = frmAck s.cfg (t.rcv.expected - 1) ∧ le32 g 2 = t.rcv.expected - 1 ∧
    (t.rcv.expected = 0 → le32 g 2 = 0xFFFFFFFF#32)

/-- One acknowledgment per inbound frame (43_receiver.md R212 with `ACK_ON_BUFFER = 1`): exactly one for a frame that
validates, none for one that does not, none when the receiver halts; it is the last item. -/
def Obligations.OneAcknowledgmentPerValidFrame : Prop :=
  ∀ (s t : State) (f : Frame), s.rcv.mode = .ready → s.cfg.ackOnBuffer = true →
    exec (.rcvFrame f) s = .next t →
    (chkValidate s.cfg f = false → sentFrames t.outbox = []) ∧
    (chkValidate s.cfg f = true → t.rcv.mode = .ready →
      sentFrames t.outbox = [frmAck s.cfg (t.rcv.expected - 1)] ∧
      t.outbox.getLast? = some (.sendFrame (frmAck s.cfg (t.rcv.expected - 1)))) ∧
    (t.rcv.mode = .halted → sentFrames t.outbox = [])

/-- DRAIN and the monotonicity of `expected` (43_receiver.md R214, R217): `expected` never decreases over an instance
and moves by at most `W` in one operation; read as `ack + 1`, the acknowledgment of a frame is not below the `expected`
it found. When the expected frame arrives and the receiver does not halt, it consumes exactly the run of buffered
frames behind it: every slot it passed was occupied and is free, the slot it stopped at is free, every other flag is
as it was. -/
def Obligations.DrainAdvancesToTheFirstGap : Prop :=
  ∀ (s t : State) (f : Frame), s.Inv → s.rcv.mode = .ready → exec (.rcvFrame f) s = .next t →
    s.rcv.expected.toNat ≤ t.rcv.expected.toNat ∧
    t.rcv.expected.toNat ≤ s.rcv.expected.toNat + s.cfg.window ∧
    (∀ g, Action.sendFrame g ∈ t.outbox → s.rcv.expected.toNat ≤ (le32 g 2 + 1).toNat) ∧
    (chkValidate s.cfg f = true → le32 f 2 = s.rcv.expected → s.rcv.expected ≠ 0xFFFFFFFF#32 →
      t.rcv.mode = .ready →
      s.rcv.expected.toNat < t.rcv.expected.toNat ∧
      (∀ n, s.rcv.expected.toNat < n → n < t.rcv.expected.toNat →
        Store.read false s.rcv.occ (n % s.cfg.window) = true ∧
        Store.read false t.rcv.occ (n % s.cfg.window) = false) ∧
      t.rcv.occAt s.cfg t.rcv.expected = false ∧
      (∀ k, (∀ n, s.rcv.expected.toNat ≤ n → n < t.rcv.expected.toNat → n % s.cfg.window ≠ k) →
        Store.read false t.rcv.occ k = Store.read false s.rcv.occ k))

/-- A frame delivered twice (43_receiver.md R212 corner cases (b) and (c), 95_test_vectors.md E5): the second delivery
changes nothing in RCV, delivers nothing, and, for a valid frame under `ACK_ON_BUFFER = 1`, draws exactly one
acknowledgment for `expected - 1`. -/
def Obligations.DuplicateFramesChangeNothing : Prop :=
  ∀ (s t : State) (f : Frame), s.Inv → s.rcv.mode = .ready → exec (.rcvFrame f) s = .next t →
    t.rcv.mode = .ready →
    ∃ u, exec (.rcvFrame f) t = .next u ∧ u.rcv = t.rcv ∧ deliveredMessages u.outbox = [] ∧
      (chkValidate s.cfg f = true → s.cfg.ackOnBuffer = true →
        u.outbox = [.sendFrame (frmAck s.cfg (t.rcv.expected - 1))])

/-- What RCV never does (43_receiver.md R222): it emits only ACK frames, deliveries of whole messages and
`RxMalformed`; it never starts or stops a timer, and INIT and FINAL emit nothing. -/
def Obligations.ReceiverEmitsOnlyItsOwnActions : Prop :=
  ∀ (i : Instr) (s t : State), ownerOf i = some .rcv → exec i s = .next t →
    (∀ a ∈ t.outbox, (∃ ack, a = .sendFrame (frmAck s.cfg ack)) ∨
      (∃ len data, a = .deliverMessage len data ∧ data.length = len.toNat) ∨
      ∃ info, a = .fault ⟨.rxMalformed, info⟩) ∧
    (i = .rcvInit ∨ i = .rcvFinal → t.outbox = [])

/-! ## Both units -/

/-- SND and RCV share no state, and CHK and FRM hold none (10_state.md R20, R21): an operation of one unit neither
writes nor depends on the other, and a CHK or FRM operation writes neither and does not depend on either. -/
def Obligations.UnitsShareNoState : Prop :=
  (∀ (i : Instr) (s t : State) (r : Rcv), ownerOf i = some .snd → exec i s = .next t →
    t.rcv = s.rcv ∧ exec i { s with rcv := r } = .next { t with rcv := r }) ∧
  (∀ (i : Instr) (s t : State) (u : Snd), ownerOf i = some .rcv → exec i s = .next t →
    t.snd = s.snd ∧ exec i { s with snd := u } = .next { t with snd := u }) ∧
  (∀ (i : Instr) (s t : State) (u : Snd) (r : Rcv), ownerOf i = none → exec i s = .next t →
    t.snd = s.snd ∧ t.rcv = s.rcv ∧
    exec i { s with snd := u, rcv := r } = .next { t with snd := u, rcv := r })

/-- A SND operation and a RCV operation commute on block state (20_memory.md R74): where they have steps in one order
they have them in the other, with the same registers, flags and buffers, and the same output of each. -/
def Obligations.UnitOperationsCommute : Prop :=
  ∀ (i j : Instr) (s : State), ownerOf i = some .snd → ownerOf j = some .rcv →
    (∀ t₁ t₂, exec i s = .next t₁ → exec j t₁ = .next t₂ →
      ∃ u₁ u₂, exec j s = .next u₁ ∧ exec i u₁ = .next u₂ ∧ u₂.snd = t₂.snd ∧ u₂.rcv = t₂.rcv ∧
        u₂.cfg = t₂.cfg ∧ u₁.outbox = t₂.outbox ∧ u₂.outbox = t₁.outbox) ∧
    (∀ u₁ u₂, exec j s = .next u₁ → exec i u₁ = .next u₂ →
      ∃ t₁ t₂, exec i s = .next t₁ ∧ exec j t₁ = .next t₂ ∧ t₂.snd = u₂.snd ∧ t₂.rcv = u₂.rcv ∧
        t₂.cfg = u₂.cfg ∧ t₂.outbox = u₁.outbox ∧ t₁.outbox = u₂.outbox)

/-- Mode OFF (60_exceptions.md R281): any event but INIT delivered to a unit in OFF is refused; there is no successor
state. -/
def Obligations.UnitThatIsOffRefuses : Prop :=
  ∀ (i : Instr) (s : State), i.wf s.cfg = true →
    (ownerOf i = some .snd → i ≠ .sndInit → s.snd.mode = .off → exec i s = .refused .unitOff) ∧
    (ownerOf i = some .rcv → i ≠ .rcvInit → s.rcv.mode = .off → exec i s = .refused .unitOff)

/-- The halted state (60_exceptions.md R263): a halted unit accepts and discards every event but INIT and FINAL, with
no state change and no output, and SND.TIMEOUT is not enabled. -/
def Obligations.HaltedUnitDiscardsEvents : Prop :=
  ∀ (i : Instr) (s : State), i.wf s.cfg = true →
    (ownerOf i = some .snd → s.snd.mode = .halted → i ≠ .sndInit → i ≠ .sndFinal →
      exec i s = if i = .sndTimeout then .refused .timeoutNotEnabled
        else .next { s with outbox := [], result := none }) ∧
    (ownerOf i = some .rcv → s.rcv.mode = .halted → i ≠ .rcvInit → i ≠ .rcvFinal →
      exec i s = .next { s with outbox := [], result := none })

/-- The mode transitions (60_exceptions.md R280), over all operations: INIT leads to READY with the fault register
cleared, FINAL to OFF with the fault register kept; SND.MSG and SND.ACKF are the only other SND operations that change
the mode or the fault register, and only by entering HALTED from READY with a sender code (SND.ACKF with `SeqExhausted`
alone), and RCV.FRAME the only other one of RCV, with the code of `RxMalformed`. -/
def Obligations.ModesMoveByTheTable : Prop :=
  ∀ (i : Instr) (s t : State), exec i s = .next t →
    (i = .sndInit → t.snd.mode = .ready ∧ t.snd.fault = 0) ∧
    (i = .sndFinal → s.snd.mode ≠ .off ∧ t.snd.mode = .off ∧ t.snd.fault = s.snd.fault) ∧
    (i ≠ .sndInit → i ≠ .sndFinal →
      (t.snd.mode = s.snd.mode ∧ t.snd.fault = s.snd.fault) ∨
      (s.snd.mode = .ready ∧ t.snd.mode = .halted ∧
        ((∃ len data, i = .sndMsg len data) ∧ t.snd.fault ∈ [0x01, 0x02, 0x03] ∨
          (∃ f, i = .sndAckf f) ∧ t.snd.fault = 0x02))) ∧
    (i = .rcvInit → t.rcv.mode = .ready ∧ t.rcv.fault = 0) ∧
    (i = .rcvFinal → s.rcv.mode ≠ .off ∧ t.rcv.mode = .off ∧ t.rcv.fault = s.rcv.fault) ∧
    (i ≠ .rcvInit → i ≠ .rcvFinal →
      (t.rcv.mode = s.rcv.mode ∧ t.rcv.fault = s.rcv.fault) ∨
      (s.rcv.mode = .ready ∧ t.rcv.mode = .halted ∧ (∃ f, i = .rcvFrame f) ∧ t.rcv.fault = 0x11))

/-- Fault entry (60_exceptions.md R262): a unit goes from READY to HALTED exactly when the output list reports a fault
of that unit; the report is the last item, the only one, and the fault register holds its code. -/
def Obligations.FaultEntryReportsLast : Prop :=
  ∀ (i : Instr) (s t : State), exec i s = .next t →
    (∀ r, Action.fault r ∈ t.outbox →
      (∃ before, t.outbox = before ++ [.fault r] ∧ ∀ r', Action.fault r' ∉ before) ∧
      (r.cause = .rxMalformed → ownerOf i = some .rcv ∧ s.rcv.mode = .ready ∧ t.rcv.mode = .halted ∧
        t.rcv.fault = r.cause.code) ∧
      (r.cause ≠ .rxMalformed → ownerOf i = some .snd ∧ s.snd.mode = .ready ∧ t.snd.mode = .halted ∧
        t.snd.fault = r.cause.code)) ∧
    (s.snd.mode = .ready → t.snd.mode = .halted → ∃ r, r.cause ≠ .rxMalformed ∧ Action.fault r ∈ t.outbox) ∧
    (s.rcv.mode = .ready → t.rcv.mode = .halted → ∃ r, r.cause = .rxMalformed ∧ Action.fault r ∈ t.outbox)

/-- When an operation has a step (60_exceptions.md R265): exactly when its operands are of their types and it is
enabled; none is masked and none stops on its data. An operand outside its type is refused by name
(70_reset_and_hazards.md R304; that the refusal comes before the mode is looked at is the model's choice, log 17). -/
def Obligations.OperationHasStepIffEnabled : Prop :=
  ∀ (i : Instr) (s : State),
    ((∃ t, exec i s = .next t) ↔ i.wf s.cfg = true ∧ enabled s i = true) ∧
    (i.wf s.cfg = false → exec i s = .refused .operandShape)

/-- The status view (10_state.md R46), in every state: the register each number shows, the modes as `OFF = 0`,
`READY = 1`, `HALTED = 2` (R36), `occ` as the word whose bit `i` is the flag of slot `i`, no register at the other
numbers; and after both INITs the values of the table's last column, 0 but for the two modes. -/
def Obligations.StatusViewShowsTheRegisters : Prop :=
  (∀ s : State,
    (s.status 0x00 = some 0 ↔ s.snd.mode = .off) ∧ (s.status 0x00 = some 1 ↔ s.snd.mode = .ready) ∧
    (s.status 0x00 = some 2 ↔ s.snd.mode = .halted) ∧
    s.status 0x01 = some s.snd.fault.toNat ∧ s.status 0x02 = some s.snd.ackExpected.toNat ∧
    s.status 0x03 = some s.snd.nextSeq.toNat ∧ s.status 0x04 = some s.snd.nextToTransmit.toNat ∧
    s.status 0x05 = some s.snd.nbuffered ∧ s.status 0x06 = some s.snd.msgNext.toNat ∧
    s.status 0x07 = some s.snd.curMsgSeq.toNat ∧ s.status 0x08 = some s.snd.curOff.toNat ∧
    s.status 0x09 = some s.snd.q.length ∧ s.status 0x0A = some (if s.snd.tmrRun then 1 else 0) ∧
    (s.status 0x10 = some 0 ↔ s.rcv.mode = .off) ∧ (s.status 0x10 = some 1 ↔ s.rcv.mode = .ready) ∧
    (s.status 0x10 = some 2 ↔ s.rcv.mode = .halted) ∧
    s.status 0x11 = some s.rcv.fault.toNat ∧ s.status 0x12 = some s.rcv.expected.toNat ∧
    s.status 0x13 = some (if s.rcv.asmActive then 1 else 0) ∧ s.status 0x14 = some s.rcv.asmSize.toNat ∧
    s.status 0x15 = some s.rcv.asmOff.toNat ∧
    (∃ v, s.status 0x16 = some v ∧ v < 2 ^ s.cfg.window ∧
      ∀ i, i < s.cfg.window → v.testBit i = Store.read false s.rcv.occ i) ∧
    (∀ n, 0x0B ≤ n → n ≤ 0x0F → s.status n = none) ∧ (∀ n, 0x17 ≤ n → s.status n = none)) ∧
  (∀ s t u : State, exec .sndInit s = .next t → exec .rcvInit t = .next u →
    u.status 0x00 = some 1 ∧ u.status 0x10 = some 1 ∧
    (∀ n, 0x01 ≤ n → n ≤ 0x0A → u.status n = some 0) ∧ (∀ n, 0x11 ≤ n → n ≤ 0x16 → u.status n = some 0))

/-! ## Invariants -/

/-- The invariants of 10_state.md R30 and R34 hold in mode READY after every step from a state in which they hold;
with them the stores keep their form and the fault register is 0 in READY and set in HALTED (R40). -/
def Obligations.InvariantKeptByEveryStep : Prop :=
  ∀ s t : State, s.Inv → step s = .next t → t.Inv

/-- The state after reset satisfies the invariant. The build and the register values the spec leaves open are the
model's choice (log 1, log 2). -/
def Obligations.ResetHasTheInvariant : Prop := State.reset.Inv

/-! ## Both ends of the channel -/

/-- Window agreement (43_receiver.md R219): while the channel only loses, duplicates, reorders and detectably corrupts
frames, every move keeps `ack_expected <= expected <= next_seq`. The channel is the model's surroundings of the block
(log 15). -/
def Obligations.WindowAgreementKeptByEveryMove : Prop :=
  ∀ (y y' : System) (m : Move), y.Agree → m.honest y → m.lifecycle = false → y.move m = some y' → y'.Agree

/-- A system right after both INITs with an empty channel agrees, and both its units are READY
(70_reset_and_hazards.md R302, 20_memory.md R80). -/
def Obligations.StartedSystemAgrees : Prop :=
  ∀ y : System, y.Started → y.Agree ∧ y.block.snd.mode = .ready ∧ y.block.rcv.mode = .ready

/-- Reassembly fidelity (43_receiver.md R218, 42_sender.md R178): a message of any length an idle sender cuts into
frames, given in order to a receiver that expects the first of them, is delivered once, with its length and its
bytes, and the receiver then expects the sender's next number. The lossless channel that carries them is the model's
surroundings of the block (log 15). -/
def Obligations.CutMessageIsReassembled : Prop :=
  ∀ (s : State) (len : Word) (data : List Byte), s.Inv →
    s.snd.mode = .ready → s.snd.tmrRun = false → s.snd.q = [] →
    s.rcv.mode = .ready → s.rcv.asmActive = false → s.rcv.occ = [] → s.rcv.expected = s.snd.nextSeq →
    data.length = len.toNat → len.toNat ≤ s.cfg.msgMax →
    fragmentCount s.cfg len.toNat ≤ s.cfg.window →
    s.snd.nextSeq.toNat + fragmentCount s.cfg len.toNat ≤ 0xFFFFFFFF →
    ∃ t u out, exec (.sndMsg len data) s = .next t ∧ relay (sentFrames t.outbox) t = some (u, out) ∧
      deliveredMessages out = [(len, data)] ∧
      u.rcv.mode = .ready ∧ u.rcv.asmActive = false ∧ u.rcv.expected = t.snd.nextSeq ∧ u.snd = t.snd

/-- Delivery (43_receiver.md R218): from both INITs on, whatever the channel loses, duplicates, reorders
or detectably corrupts and whenever the timer fires, as long as no fault is recorded the messages delivered are a
prefix of the messages enqueued: whole, unchanged, in order, none twice. The channel is the model's surroundings of
the block (log 15). -/
def Obligations.DeliveredIsPrefixOfEnqueued : Prop :=
  ∀ (y y' : System) (ms : List Move), y.Started → System.honestMoves ms y → System.moves ms y = some y' →
    Safe y'.block → y'.delivered <+: y'.enqueued
end

