-- ==== Sys2Proof/Laws/Bytes.lean ====
section
/-! SUPPORT. Little-endian reads and writes of buffers, once. -/

namespace Sys2Proof

@[simp] theorem length_leBytes (n v : Nat) : (leBytes n v).length = n := by
  induction n generalizing v with
  | zero => rfl
  | succ n ih => simp [leBytes, ih]

@[simp] theorem length_put32 (v : Word) : (put32 v).length = 4 := length_leBytes 4 _

@[simp] theorem length_memWrite (buf : List Byte) (off n v : Nat) :
    (memWrite buf off n v).length = buf.length := by
  induction n generalizing buf off v with
  | zero => rfl
  | succ n ih => simp [memWrite, ih]

theorem byteAt_append_left {a b : List Byte} {k : Nat} (h : k < a.length) :
    byteAt (a ++ b) k = byteAt a k := by
  simp [byteAt, List.getD_eq_getElem?_getD, List.getElem?_append_left h]

theorem byteAt_append_right {a b : List Byte} {k : Nat} (h : a.length ≤ k) :
    byteAt (a ++ b) k = byteAt b (k - a.length) := by
  simp [byteAt, List.getD_eq_getElem?_getD, List.getElem?_append_right h]

/-- A read depends only on the bytes in its range. -/
theorem memRead_congr {a b : List Byte} {off n : Nat}
    (h : ∀ k, off ≤ k → k < off + n → byteAt a k = byteAt b k) : memRead a off n = memRead b off n := by
  induction n generalizing off with
  | zero => rfl
  | succ n ih =>
    simp only [memRead, h off (by omega) (by omega)]
    rw [ih fun k h1 h2 => h k (by omega) (by omega)]

/-- A read of `n` bytes is below `2^(8n)`. -/
theorem memRead_lt (buf : List Byte) (off n : Nat) : memRead buf off n < 2 ^ (8 * n) := by
  induction n generalizing off with
  | zero => simp [memRead]
  | succ n ih =>
    have h1 := ih (off + 1)
    have h2 := (byteAt buf off).isLt
    have h3 : 2 ^ (8 * (n + 1)) = 2 ^ 8 * 2 ^ (8 * n) := by rw [← pow_add]; congr 1; omega
    simp only [memRead, h3]
    nlinarith

/-- The bytes of a value read back as that value, wherever they stand. -/
theorem memRead_leBytes (pre post : List Byte) (n v : Nat) (h : v < 2 ^ (8 * n)) :
    memRead (pre ++ leBytes n v ++ post) pre.length n = v := by
  induction n generalizing pre v with
  | zero => simp at h; simp [memRead, h]
  | succ n ih =>
    have h3 : 2 ^ (8 * (n + 1)) = 2 ^ 8 * 2 ^ (8 * n) := by rw [← pow_add]; congr 1; omega
    have hv : v / 2 ^ 8 < 2 ^ (8 * n) := by rw [Nat.div_lt_iff_lt_mul (by norm_num)]; linarith
    have hb : byteAt (pre ++ leBytes (n + 1) v ++ post) pre.length = BitVec.ofNat 8 v := by
      rw [List.append_assoc, byteAt_append_right (Nat.le_refl _)]
      simp [leBytes, byteAt]
    have ht := ih (pre ++ [BitVec.ofNat 8 v]) (v / 2 ^ 8) hv
    simp only [List.length_append, List.length_cons, List.length_nil, Nat.zero_add] at ht
    rw [memRead, hb]
    have hl : pre ++ leBytes (n + 1) v ++ post =
        pre ++ [BitVec.ofNat 8 v] ++ leBytes n (v / 2 ^ 8) ++ post := by simp [leBytes]
    rw [hl, ht, BitVec.toNat_ofNat]
    omega

/-- `PUT32` then a 32-bit read gives the word back. -/
theorem le32_put32 (pre post : List Byte) (w : Word) :
    le32 (pre ++ put32 w ++ post) pre.length = w := by
  rw [le32, put32, memRead_leBytes pre post 4 w.toNat w.isLt, BitVec.ofNat_toNat, BitVec.setWidth_eq]

/-- The bytes a buffer holds where a value reads are the bytes of that value. -/
theorem leBytes_memRead (buf : List Byte) (off n : Nat) (h : off + n ≤ buf.length) :
    leBytes n (memRead buf off n) = (buf.drop off).take n := by
  induction n generalizing off with
  | zero => simp [leBytes]
  | succ n ih =>
    have hlt : off < buf.length := by omega
    have hd : buf.drop off = byteAt buf off :: buf.drop (off + 1) := by
      rw [List.drop_eq_getElem_cons hlt]
      simp [byteAt, List.getD_eq_getElem?_getD, List.getElem?_eq_getElem hlt]
    have hb := (byteAt buf off).isLt
    rw [hd, List.take_succ_cons, ← ih (off + 1) (by omega), memRead, leBytes]
    congr 1
    · apply BitVec.eq_of_toNat_eq
      rw [BitVec.toNat_ofNat]
      omega
    · congr 1
      omega

theorem put32_le32 (buf : List Byte) (off : Nat) (h : off + 4 ≤ buf.length) :
    put32 (le32 buf off) = (buf.drop off).take 4 := by
  have := memRead_lt buf off 4
  rw [put32, le32, BitVec.toNat_ofNat, Nat.mod_eq_of_lt (by simpa using this)]
  exact leBytes_memRead buf off 4 h

/-- A write leaves the bytes outside its range alone. -/
theorem byteAt_memWrite_other (buf : List Byte) {off n k : Nat} (v : Nat)
    (h : k < off ∨ off + n ≤ k) : byteAt (memWrite buf off n v) k = byteAt buf k := by
  induction n generalizing buf off v with
  | zero => rfl
  | succ n ih =>
    rw [memWrite, ih _ _ (by omega)]
    simp [byteAt, List.getD_eq_getElem?_getD, List.getElem?_set_ne (show off ≠ k by omega)]

/-- A value written inside a buffer reads back. -/
theorem memRead_memWrite (buf : List Byte) (off n v : Nat) (hin : off + n ≤ buf.length)
    (hv : v < 2 ^ (8 * n)) : memRead (memWrite buf off n v) off n = v := by
  induction n generalizing buf off v with
  | zero => simp at hv; simp [memRead, hv]
  | succ n ih =>
    have h3 : 2 ^ (8 * (n + 1)) = 2 ^ 8 * 2 ^ (8 * n) := by rw [← pow_add]; congr 1; omega
    have hv' : v / 2 ^ 8 < 2 ^ (8 * n) := by rw [Nat.div_lt_iff_lt_mul (by norm_num)]; linarith
    have hb : byteAt (memWrite buf off (n + 1) v) off = BitVec.ofNat 8 v := by
      rw [memWrite, byteAt_memWrite_other _ _ (.inl (Nat.lt_succ_self off))]
      simp [byteAt, List.getD_eq_getElem?_getD, show off < buf.length by omega]
    rw [memRead, hb, memWrite, ih _ _ _ (by simp; omega) hv', BitVec.toNat_ofNat]
    omega

end Sys2Proof
end

