-- ==== Sys2Proof/Laws/Checksum.lean ====
section
/-! SUPPORT. What CHK's functions read and write, once. -/

namespace Sys2Proof.Machine

@[simp] theorem length_chkStamp (c : Config) (f : Frame) : (chkStamp c f).length = f.length := by
  simp [chkStamp]

/-- The summed region is bytes 2 to the end: two frames equal there have the same words (40_checksum.md R130). -/
theorem chkWords_congr (c : Config) {f g : Frame} (h : ∀ k, 2 ≤ k → byteAt f k = byteAt g k) :
    chkWords c f = chkWords c g := by
  unfold chkWords le16
  refine List.map_congr_left fun k _ => memRead_congr fun j h1 _ => h j (by omega)

/-- Stamping changes no summed word (40_checksum.md R136). -/
theorem chkWords_chkStamp (c : Config) (f : Frame) : chkWords c (chkStamp c f) = chkWords c f :=
  chkWords_congr c fun k hk => by rw [chkStamp, byteAt_memWrite_other _ _ (.inr (by omega))]

/-- The checksum is a function of the summed words. -/
theorem chkSum_eq_of_words (c : Config) {f g : Frame} (h : chkWords c f = chkWords c g) :
    chkSum c f = chkSum c g := by simp [chkSum, chkRaw, h]

/-- A fold of a sum above 16 bits is smaller. -/
theorem foldOnce_lt {s : Nat} (h : s >>> 16 ≠ 0) : foldOnce s < s := by
  unfold foldOnce
  rw [Nat.shiftRight_eq_div_pow] at *
  rw [show (0xFFFF : Nat) = 2 ^ 16 - 1 by norm_num, Nat.and_two_pow_sub_one_eq_mod]
  omega

/-- A fold keeps the value modulo `0xFFFF` (40_checksum.md R133). -/
theorem foldOnce_mod (s : Nat) : foldOnce s % 0xFFFF = s % 0xFFFF := by
  unfold foldOnce
  rw [Nat.shiftRight_eq_div_pow, show (0xFFFF : Nat) = 2 ^ 16 - 1 by norm_num,
    Nat.and_two_pow_sub_one_eq_mod]
  omega

/-- A fold keeps a positive value positive (40_checksum.md R133). -/
theorem foldOnce_pos {s : Nat} (h : 0 < s) : 0 < foldOnce s := by
  unfold foldOnce
  rw [Nat.shiftRight_eq_div_pow, show (0xFFFF : Nat) = 2 ^ 16 - 1 by norm_num,
    Nat.and_two_pow_sub_one_eq_mod]
  omega

/-- Enough rounds leave 16 bits. -/
theorem foldRounds_lt {n s : Nat} (h : s ≤ n) : foldRounds n s < 2 ^ 16 := by
  induction n generalizing s with
  | zero => simp_all [foldRounds]
  | succ n ih =>
    unfold foldRounds
    split
    · rename_i h0
      rw [Nat.shiftRight_eq_div_pow] at h0
      omega
    · rename_i h0
      exact ih (by have := foldOnce_lt h0; omega)

/-- A frame's checksum field is the only thing its words do not cover: what CHK.VALIDATE compares. -/
theorem chkValidate_iff (c : Config) (f : Frame) :
    chkValidate c f = true ↔ (chkSum c f).toNat = le16 f 0 := by simp [chkValidate]

end Sys2Proof.Machine
end

