-- ==== Sys2Proof/Laws/Decode.lean ====
section
/-! SUPPORT. Codes and operations, and what a command that decodes looks like, once. -/

namespace Sys2Proof

/-- Every operation's code selects that operation (30_encoding.md R105). -/
@[simp] theorem opOfCode_code (op : Op) : opOfCode op.code = some op := by cases op <;> decide

/-- A code that selects an operation is that operation's code. -/
theorem code_of_opOfCode : ∀ (code : BitVec 5) (op : Op), opOfCode code = some op → op.code = code := by
  intro code op h
  revert op
  revert code
  decide +kernel

/-- What `decode` answers, whole: it succeeds exactly on a code of the table whose operand bytes are operands of
its operation, well formed for the build. -/
theorem decode_ok_iff (c : Config) (m : Command) (i : Instr) :
    decode c m = .ok i ↔
      ∃ op, opOfCode m.op = some op ∧ instrOfOperand op m.operand = some i ∧ i.wf c = true := by
  unfold decode
  constructor
  · intro h
    split at h
    · cases h
    · rename_i op h1
      split at h
      · cases h
      · rename_i j h2
        split at h
        · rename_i h3
          cases h
          exact ⟨op, h1, h2, h3⟩
        · cases h
  · rintro ⟨op, h1, h2, h3⟩
    simp [h1, h2, h3]

/-- A code outside the table is refused as such, whatever its operand (30_encoding.md R106). -/
theorem decode_reserved (c : Config) (m : Command) (h : opOfCode m.op = none) :
    decode c m = .error .reservedCode := by
  simp [decode, h]

end Sys2Proof
end

