-- ==== Sys2Proof/Laws/Framer.lean ====
section
/-! SUPPORT. The length of what FRM builds, and which bytes FRM.PARSE reads, once. -/

namespace Sys2Proof.Machine

/-- FRM.DATA builds a whole frame for a payload that fits (30_encoding.md R90). -/
theorem length_frmData (c : Config) (seq : Word) (plen : Byte) (payload : List Byte)
    (h7 : 7 ≤ c.frameSize) (h : payload.length ≤ c.maxPayload) :
    (frmData c seq plen payload).length = c.frameSize := by
  unfold Config.maxPayload at h
  simp [frmData]
  omega

/-- On the operands a conforming caller gives, the payload is copied as it is (41_framer.md R151). -/
theorem copiedPayload_of_fits {c : Config} {plen : Byte} {payload : List Byte} (seq : Word)
    (h : plen.toNat ≤ c.maxPayload) (hp : payload.length = plen.toNat) :
    copiedPayload c seq plen payload = payload := by
  rw [copiedPayload, if_pos h, ← hp]
  simp

/-- What is copied is `plen` bytes, cut at the end of the frame, whatever the operands are. -/
theorem length_copiedPayload (c : Config) (seq : Word) (plen : Byte) (payload : List Byte) :
    (copiedPayload c seq plen payload).length = min plen.toNat c.maxPayload := by
  unfold copiedPayload
  split <;> simp <;> omega

/-- A byte that `payload` holds is copied to its place, when the copy stays inside the frame. -/
theorem byteAt_copiedPayload {c : Config} {plen : Byte} {payload : List Byte} {k : Nat} (seq : Word)
    (h : plen.toNat ≤ c.maxPayload) (hk : k < plen.toNat) (hp : k < payload.length) :
    byteAt (copiedPayload c seq plen payload) k = byteAt payload k := by
  rw [copiedPayload, if_pos h, byteAt_append_left (by simp; omega)]
  simp [byteAt, List.getD_eq_getElem?_getD, hk]

/-- FRM.ACK builds a whole frame (30_encoding.md R90). -/
theorem length_frmAck (c : Config) (ack : Word) (h6 : 6 ≤ c.frameSize) :
    (frmAck c ack).length = c.frameSize := by
  simp [frmAck]
  omega

/-- The fields but the checksum depend on the bytes from offset 2 alone (30_encoding.md R96). -/
theorem frmParse_chkStamp (c : Config) (f : Frame) :
    (frmParse (chkStamp c f)).seq = (frmParse f).seq ∧
    (frmParse (chkStamp c f)).plen = (frmParse f).plen ∧
    (frmParse (chkStamp c f)).payload = (frmParse f).payload := by
  have hb : ∀ k, 2 ≤ k → byteAt (chkStamp c f) k = byteAt f k := fun k hk => by
    rw [chkStamp, byteAt_memWrite_other _ _ (.inr (by omega))]
  refine ⟨?_, hb 6 (by omega), ?_⟩
  · simp only [frmParse]
    rw [memRead_congr fun k h1 _ => hb k h1]
  · simp only [frmParse]
    apply List.ext_getElem?
    intro k
    have := hb (7 + k) (by omega)
    simp only [List.getElem?_drop]
    rcases Nat.lt_or_ge (7 + k) f.length with h | h
    · simp only [byteAt, List.getD_eq_getElem?_getD] at this
      rw [List.getElem?_eq_getElem (by simpa using h), List.getElem?_eq_getElem h] at this ⊢
      simpa using this
    · rw [List.getElem?_eq_none (by simpa using h), List.getElem?_eq_none h]

end Sys2Proof.Machine
end

