-- ==== Sys2Proof/Laws/PerInstr.lean ====
section
/-! SUPPORT. Facts about every instruction as syntax, one lemma per constructor: its command code sits in the
table of 30_encoding.md R105 with the unit field of its unit. -/

namespace Sys2Proof.Laws.UnitCode

/-- `op[4:3]` of the instruction's code is 0 or 1 for CHK and FRM, 2 for SND, 3 for RCV (30_encoding.md R105). -/
def Statement (i : Instr) : Prop :=
  match Machine.ownerOf i with
  | none => (unitField (encode i).op).toNat ≤ 1
  | some .snd => unitField (encode i).op = 2
  | some .rcv => unitField (encode i).op = 3

theorem chkSum (f : Frame) : Statement (.chkSum f) := by simp [Statement, Machine.ownerOf, encode, Instr.op, Op.code, unitField]
theorem chkValidate (f : Frame) : Statement (.chkValidate f) := by simp [Statement, Machine.ownerOf, encode, Instr.op, Op.code, unitField]
theorem chkStamp (f : Frame) : Statement (.chkStamp f) := by simp [Statement, Machine.ownerOf, encode, Instr.op, Op.code, unitField]
theorem frmData (seq : Word) (plen : Byte) (payload : List Byte) : Statement (.frmData seq plen payload) := by
  simp [Statement, Machine.ownerOf, encode, Instr.op, Op.code, unitField]
theorem frmAck (ack : Word) : Statement (.frmAck ack) := by simp [Statement, Machine.ownerOf, encode, Instr.op, Op.code, unitField]
theorem frmParse (f : Frame) : Statement (.frmParse f) := by simp [Statement, Machine.ownerOf, encode, Instr.op, Op.code, unitField]
theorem sndInit : Statement .sndInit := by simp [Statement, Machine.ownerOf, encode, Instr.op, Op.code, unitField]
theorem sndMsg (len : Word) (data : List Byte) : Statement (.sndMsg len data) := by
  simp [Statement, Machine.ownerOf, encode, Instr.op, Op.code, unitField]
theorem sndAckf (f : Frame) : Statement (.sndAckf f) := by simp [Statement, Machine.ownerOf, encode, Instr.op, Op.code, unitField]
theorem sndTimeout : Statement .sndTimeout := by simp [Statement, Machine.ownerOf, encode, Instr.op, Op.code, unitField]
theorem sndFinal : Statement .sndFinal := by simp [Statement, Machine.ownerOf, encode, Instr.op, Op.code, unitField]
theorem rcvInit : Statement .rcvInit := by simp [Statement, Machine.ownerOf, encode, Instr.op, Op.code, unitField]
theorem rcvFrame (f : Frame) : Statement (.rcvFrame f) := by simp [Statement, Machine.ownerOf, encode, Instr.op, Op.code, unitField]
theorem rcvFinal : Statement .rcvFinal := by simp [Statement, Machine.ownerOf, encode, Instr.op, Op.code, unitField]

end Sys2Proof.Laws.UnitCode
end

