-- ==== Sys2Proof/Laws/State.lean ====
section
/-! SUPPORT. What each update of the state does to each field, once. -/

namespace Sys2Proof.Machine

/-! `State.settle`: the output list and no result. -/

@[simp] theorem State.settle_cfg (out : List Action) (s : State) :
    (s.settle out).cfg = s.cfg := rfl

@[simp] theorem State.settle_snd (out : List Action) (s : State) :
    (s.settle out).snd = s.snd := rfl

@[simp] theorem State.settle_rcv (out : List Action) (s : State) :
    (s.settle out).rcv = s.rcv := rfl

@[simp] theorem State.settle_inbox (out : List Action) (s : State) :
    (s.settle out).inbox = s.inbox := rfl

@[simp] theorem State.settle_outbox (out : List Action) (s : State) :
    (s.settle out).outbox = out := rfl

@[simp] theorem State.settle_result (out : List Action) (s : State) :
    (s.settle out).result = none := rfl

@[simp] theorem State.settle_sndFree (out : List Action) (s : State) :
    (s.settle out).sndFree = s.sndFree := rfl

@[simp] theorem State.settle_rcvFree (out : List Action) (s : State) :
    (s.settle out).rcvFree = s.rcvFree := rfl

/-! `State.answer`: a result and no output. -/

@[simp] theorem State.answer_cfg (r : Result) (s : State) :
    (s.answer r).cfg = s.cfg := rfl

@[simp] theorem State.answer_snd (r : Result) (s : State) :
    (s.answer r).snd = s.snd := rfl

@[simp] theorem State.answer_rcv (r : Result) (s : State) :
    (s.answer r).rcv = s.rcv := rfl

@[simp] theorem State.answer_inbox (r : Result) (s : State) :
    (s.answer r).inbox = s.inbox := rfl

@[simp] theorem State.answer_outbox (r : Result) (s : State) :
    (s.answer r).outbox = [] := rfl

@[simp] theorem State.answer_result (r : Result) (s : State) :
    (s.answer r).result = some r := rfl

@[simp] theorem State.answer_sndFree (r : Result) (s : State) :
    (s.answer r).sndFree = s.sndFree := rfl

@[simp] theorem State.answer_rcvFree (r : Result) (s : State) :
    (s.answer r).rcvFree = s.rcvFree := rfl

/-! `State.emit`: one more output item. -/

@[simp] theorem State.emit_cfg (a : Action) (s : State) :
    (s.emit a).cfg = s.cfg := rfl

@[simp] theorem State.emit_snd (a : Action) (s : State) :
    (s.emit a).snd = s.snd := rfl

@[simp] theorem State.emit_rcv (a : Action) (s : State) :
    (s.emit a).rcv = s.rcv := rfl

@[simp] theorem State.emit_inbox (a : Action) (s : State) :
    (s.emit a).inbox = s.inbox := rfl

@[simp] theorem State.emit_outbox (a : Action) (s : State) :
    (s.emit a).outbox = s.outbox ++ [a] := rfl

@[simp] theorem State.emit_result (a : Action) (s : State) :
    (s.emit a).result = s.result := rfl

@[simp] theorem State.emit_sndFree (a : Action) (s : State) :
    (s.emit a).sndFree = s.sndFree := rfl

@[simp] theorem State.emit_rcvFree (a : Action) (s : State) :
    (s.emit a).rcvFree = s.rcvFree := rfl

/-! `Snd.setWin`: one window slot. -/

@[simp] theorem Snd.setWin_mode (c : Config) (k : Word) (f : Frame) (u : Snd) :
    (u.setWin c k f).mode = u.mode := rfl

@[simp] theorem Snd.setWin_fault (c : Config) (k : Word) (f : Frame) (u : Snd) :
    (u.setWin c k f).fault = u.fault := rfl

@[simp] theorem Snd.setWin_ackExpected (c : Config) (k : Word) (f : Frame) (u : Snd) :
    (u.setWin c k f).ackExpected = u.ackExpected := rfl

@[simp] theorem Snd.setWin_nextSeq (c : Config) (k : Word) (f : Frame) (u : Snd) :
    (u.setWin c k f).nextSeq = u.nextSeq := rfl

@[simp] theorem Snd.setWin_nextToTransmit (c : Config) (k : Word) (f : Frame) (u : Snd) :
    (u.setWin c k f).nextToTransmit = u.nextToTransmit := rfl

@[simp] theorem Snd.setWin_nbuffered (c : Config) (k : Word) (f : Frame) (u : Snd) :
    (u.setWin c k f).nbuffered = u.nbuffered := rfl

@[simp] theorem Snd.setWin_msgNext (c : Config) (k : Word) (f : Frame) (u : Snd) :
    (u.setWin c k f).msgNext = u.msgNext := rfl

@[simp] theorem Snd.setWin_curMsgSeq (c : Config) (k : Word) (f : Frame) (u : Snd) :
    (u.setWin c k f).curMsgSeq = u.curMsgSeq := rfl

@[simp] theorem Snd.setWin_curOff (c : Config) (k : Word) (f : Frame) (u : Snd) :
    (u.setWin c k f).curOff = u.curOff := rfl

@[simp] theorem Snd.setWin_tmrRun (c : Config) (k : Word) (f : Frame) (u : Snd) :
    (u.setWin c k f).tmrRun = u.tmrRun := rfl

@[simp] theorem Snd.setWin_q (c : Config) (k : Word) (f : Frame) (u : Snd) :
    (u.setWin c k f).q = u.q := rfl

@[simp] theorem Snd.setWin_win (c : Config) (k : Word) (f : Frame) (u : Snd) :
    (u.setWin c k f).win = Store.write (blankFrame c) u.win (slotOf c k) f := rfl

/-! `Snd.timerOn`: `tmr_run`. -/

@[simp] theorem Snd.timerOn_mode (u : Snd) :
    (u.timerOn).mode = u.mode := rfl

@[simp] theorem Snd.timerOn_fault (u : Snd) :
    (u.timerOn).fault = u.fault := rfl

@[simp] theorem Snd.timerOn_ackExpected (u : Snd) :
    (u.timerOn).ackExpected = u.ackExpected := rfl

@[simp] theorem Snd.timerOn_nextSeq (u : Snd) :
    (u.timerOn).nextSeq = u.nextSeq := rfl

@[simp] theorem Snd.timerOn_nextToTransmit (u : Snd) :
    (u.timerOn).nextToTransmit = u.nextToTransmit := rfl

@[simp] theorem Snd.timerOn_nbuffered (u : Snd) :
    (u.timerOn).nbuffered = u.nbuffered := rfl

@[simp] theorem Snd.timerOn_msgNext (u : Snd) :
    (u.timerOn).msgNext = u.msgNext := rfl

@[simp] theorem Snd.timerOn_curMsgSeq (u : Snd) :
    (u.timerOn).curMsgSeq = u.curMsgSeq := rfl

@[simp] theorem Snd.timerOn_curOff (u : Snd) :
    (u.timerOn).curOff = u.curOff := rfl

@[simp] theorem Snd.timerOn_tmrRun (u : Snd) :
    (u.timerOn).tmrRun = true := rfl

@[simp] theorem Snd.timerOn_q (u : Snd) :
    (u.timerOn).q = u.q := rfl

@[simp] theorem Snd.timerOn_win (u : Snd) :
    (u.timerOn).win = u.win := rfl

/-! `Snd.timerOff`: `tmr_run`. -/

@[simp] theorem Snd.timerOff_mode (u : Snd) :
    (u.timerOff).mode = u.mode := rfl

@[simp] theorem Snd.timerOff_fault (u : Snd) :
    (u.timerOff).fault = u.fault := rfl

@[simp] theorem Snd.timerOff_ackExpected (u : Snd) :
    (u.timerOff).ackExpected = u.ackExpected := rfl

@[simp] theorem Snd.timerOff_nextSeq (u : Snd) :
    (u.timerOff).nextSeq = u.nextSeq := rfl

@[simp] theorem Snd.timerOff_nextToTransmit (u : Snd) :
    (u.timerOff).nextToTransmit = u.nextToTransmit := rfl

@[simp] theorem Snd.timerOff_nbuffered (u : Snd) :
    (u.timerOff).nbuffered = u.nbuffered := rfl

@[simp] theorem Snd.timerOff_msgNext (u : Snd) :
    (u.timerOff).msgNext = u.msgNext := rfl

@[simp] theorem Snd.timerOff_curMsgSeq (u : Snd) :
    (u.timerOff).curMsgSeq = u.curMsgSeq := rfl

@[simp] theorem Snd.timerOff_curOff (u : Snd) :
    (u.timerOff).curOff = u.curOff := rfl

@[simp] theorem Snd.timerOff_tmrRun (u : Snd) :
    (u.timerOff).tmrRun = false := rfl

@[simp] theorem Snd.timerOff_q (u : Snd) :
    (u.timerOff).q = u.q := rfl

@[simp] theorem Snd.timerOff_win (u : Snd) :
    (u.timerOff).win = u.win := rfl

/-! `Snd.popHead`: the queue and the message cursor. -/

@[simp] theorem Snd.popHead_mode (u : Snd) :
    (u.popHead).mode = u.mode := rfl

@[simp] theorem Snd.popHead_fault (u : Snd) :
    (u.popHead).fault = u.fault := rfl

@[simp] theorem Snd.popHead_ackExpected (u : Snd) :
    (u.popHead).ackExpected = u.ackExpected := rfl

@[simp] theorem Snd.popHead_nextSeq (u : Snd) :
    (u.popHead).nextSeq = u.nextSeq := rfl

@[simp] theorem Snd.popHead_nextToTransmit (u : Snd) :
    (u.popHead).nextToTransmit = u.nextToTransmit := rfl

@[simp] theorem Snd.popHead_nbuffered (u : Snd) :
    (u.popHead).nbuffered = u.nbuffered := rfl

@[simp] theorem Snd.popHead_msgNext (u : Snd) :
    (u.popHead).msgNext = u.msgNext := rfl

@[simp] theorem Snd.popHead_curMsgSeq (u : Snd) :
    (u.popHead).curMsgSeq = u.curMsgSeq + 1 := rfl

@[simp] theorem Snd.popHead_curOff (u : Snd) :
    (u.popHead).curOff = 0 := rfl

@[simp] theorem Snd.popHead_tmrRun (u : Snd) :
    (u.popHead).tmrRun = u.tmrRun := rfl

@[simp] theorem Snd.popHead_q (u : Snd) :
    (u.popHead).q = u.q.tail := rfl

@[simp] theorem Snd.popHead_win (u : Snd) :
    (u.popHead).win = u.win := rfl

/-! `Snd.fresh`: every register but the mode and the fault register; the window stays. -/

@[simp] theorem Snd.fresh_mode (u : Snd) :
    (u.fresh).mode = u.mode := rfl

@[simp] theorem Snd.fresh_fault (u : Snd) :
    (u.fresh).fault = u.fault := rfl

@[simp] theorem Snd.fresh_ackExpected (u : Snd) :
    (u.fresh).ackExpected = 0 := rfl

@[simp] theorem Snd.fresh_nextSeq (u : Snd) :
    (u.fresh).nextSeq = 0 := rfl

@[simp] theorem Snd.fresh_nextToTransmit (u : Snd) :
    (u.fresh).nextToTransmit = 0 := rfl

@[simp] theorem Snd.fresh_nbuffered (u : Snd) :
    (u.fresh).nbuffered = 0 := rfl

@[simp] theorem Snd.fresh_msgNext (u : Snd) :
    (u.fresh).msgNext = 0 := rfl

@[simp] theorem Snd.fresh_curMsgSeq (u : Snd) :
    (u.fresh).curMsgSeq = 0 := rfl

@[simp] theorem Snd.fresh_curOff (u : Snd) :
    (u.fresh).curOff = 0 := rfl

@[simp] theorem Snd.fresh_tmrRun (u : Snd) :
    (u.fresh).tmrRun = false := rfl

@[simp] theorem Snd.fresh_q (u : Snd) :
    (u.fresh).q = [] := rfl

@[simp] theorem Snd.fresh_win (u : Snd) :
    (u.fresh).win = u.win := rfl

/-! `Snd.final`: the registers the spec leaves unspecified get free values. -/

@[simp] theorem Snd.final_mode (c : Config) (n : Nat) (u : Snd) :
    (u.final c n).mode = u.mode := rfl

@[simp] theorem Snd.final_fault (c : Config) (n : Nat) (u : Snd) :
    (u.final c n).fault = u.fault := rfl

@[simp] theorem Snd.final_ackExpected (c : Config) (n : Nat) (u : Snd) :
    (u.final c n).ackExpected = Config.freeSndWord n := rfl

@[simp] theorem Snd.final_nextSeq (c : Config) (n : Nat) (u : Snd) :
    (u.final c n).nextSeq = Config.freeSndWord (n + 1) := rfl

@[simp] theorem Snd.final_nextToTransmit (c : Config) (n : Nat) (u : Snd) :
    (u.final c n).nextToTransmit = Config.freeSndWord (n + 2) := rfl

@[simp] theorem Snd.final_nbuffered (c : Config) (n : Nat) (u : Snd) :
    (u.final c n).nbuffered = freeCounter n c.window := rfl

@[simp] theorem Snd.final_msgNext (c : Config) (n : Nat) (u : Snd) :
    (u.final c n).msgNext = Config.freeSndWord (n + 3) := rfl

@[simp] theorem Snd.final_curMsgSeq (c : Config) (n : Nat) (u : Snd) :
    (u.final c n).curMsgSeq = Config.freeSndWord (n + 4) := rfl

@[simp] theorem Snd.final_curOff (c : Config) (n : Nat) (u : Snd) :
    (u.final c n).curOff = Config.freeSndWord (n + 5) := rfl

@[simp] theorem Snd.final_tmrRun (c : Config) (n : Nat) (u : Snd) :
    (u.final c n).tmrRun = false := rfl

@[simp] theorem Snd.final_q (c : Config) (n : Nat) (u : Snd) :
    (u.final c n).q = [] := rfl

@[simp] theorem Snd.final_win (c : Config) (n : Nat) (u : Snd) :
    (u.final c n).win = u.win := rfl

/-! `Rcv.setRwin`: one window slot. -/

@[simp] theorem Rcv.setRwin_mode (c : Config) (k : Word) (f : Frame) (r : Rcv) :
    (r.setRwin c k f).mode = r.mode := rfl

@[simp] theorem Rcv.setRwin_fault (c : Config) (k : Word) (f : Frame) (r : Rcv) :
    (r.setRwin c k f).fault = r.fault := rfl

@[simp] theorem Rcv.setRwin_expected (c : Config) (k : Word) (f : Frame) (r : Rcv) :
    (r.setRwin c k f).expected = r.expected := rfl

@[simp] theorem Rcv.setRwin_asmActive (c : Config) (k : Word) (f : Frame) (r : Rcv) :
    (r.setRwin c k f).asmActive = r.asmActive := rfl

@[simp] theorem Rcv.setRwin_asmSize (c : Config) (k : Word) (f : Frame) (r : Rcv) :
    (r.setRwin c k f).asmSize = r.asmSize := rfl

@[simp] theorem Rcv.setRwin_asmOff (c : Config) (k : Word) (f : Frame) (r : Rcv) :
    (r.setRwin c k f).asmOff = r.asmOff := rfl

@[simp] theorem Rcv.setRwin_occ (c : Config) (k : Word) (f : Frame) (r : Rcv) :
    (r.setRwin c k f).occ = r.occ := rfl

@[simp] theorem Rcv.setRwin_rwin (c : Config) (k : Word) (f : Frame) (r : Rcv) :
    (r.setRwin c k f).rwin = Store.write (blankFrame c) r.rwin (slotOf c k) f := rfl

@[simp] theorem Rcv.setRwin_asmBuf (c : Config) (k : Word) (f : Frame) (r : Rcv) :
    (r.setRwin c k f).asmBuf = r.asmBuf := rfl

/-! `Rcv.setOcc`: one occupancy flag. -/

@[simp] theorem Rcv.setOcc_mode (c : Config) (k : Word) (b : Bool) (r : Rcv) :
    (r.setOcc c k b).mode = r.mode := rfl

@[simp] theorem Rcv.setOcc_fault (c : Config) (k : Word) (b : Bool) (r : Rcv) :
    (r.setOcc c k b).fault = r.fault := rfl

@[simp] theorem Rcv.setOcc_expected (c : Config) (k : Word) (b : Bool) (r : Rcv) :
    (r.setOcc c k b).expected = r.expected := rfl

@[simp] theorem Rcv.setOcc_asmActive (c : Config) (k : Word) (b : Bool) (r : Rcv) :
    (r.setOcc c k b).asmActive = r.asmActive := rfl

@[simp] theorem Rcv.setOcc_asmSize (c : Config) (k : Word) (b : Bool) (r : Rcv) :
    (r.setOcc c k b).asmSize = r.asmSize := rfl

@[simp] theorem Rcv.setOcc_asmOff (c : Config) (k : Word) (b : Bool) (r : Rcv) :
    (r.setOcc c k b).asmOff = r.asmOff := rfl

@[simp] theorem Rcv.setOcc_occ (c : Config) (k : Word) (b : Bool) (r : Rcv) :
    (r.setOcc c k b).occ = Store.write false r.occ (slotOf c k) b := rfl

@[simp] theorem Rcv.setOcc_rwin (c : Config) (k : Word) (b : Bool) (r : Rcv) :
    (r.setOcc c k b).rwin = r.rwin := rfl

@[simp] theorem Rcv.setOcc_asmBuf (c : Config) (k : Word) (b : Bool) (r : Rcv) :
    (r.setOcc c k b).asmBuf = r.asmBuf := rfl

/-! `Rcv.clearOcc`: every occupancy flag. -/

@[simp] theorem Rcv.clearOcc_mode (r : Rcv) :
    (r.clearOcc).mode = r.mode := rfl

@[simp] theorem Rcv.clearOcc_fault (r : Rcv) :
    (r.clearOcc).fault = r.fault := rfl

@[simp] theorem Rcv.clearOcc_expected (r : Rcv) :
    (r.clearOcc).expected = r.expected := rfl

@[simp] theorem Rcv.clearOcc_asmActive (r : Rcv) :
    (r.clearOcc).asmActive = r.asmActive := rfl

@[simp] theorem Rcv.clearOcc_asmSize (r : Rcv) :
    (r.clearOcc).asmSize = r.asmSize := rfl

@[simp] theorem Rcv.clearOcc_asmOff (r : Rcv) :
    (r.clearOcc).asmOff = r.asmOff := rfl

@[simp] theorem Rcv.clearOcc_occ (r : Rcv) :
    (r.clearOcc).occ = [] := rfl

@[simp] theorem Rcv.clearOcc_rwin (r : Rcv) :
    (r.clearOcc).rwin = r.rwin := rfl

@[simp] theorem Rcv.clearOcc_asmBuf (r : Rcv) :
    (r.clearOcc).asmBuf = r.asmBuf := rfl

/-! `Rcv.asmIdle`: the accumulator registers. -/

@[simp] theorem Rcv.asmIdle_mode (r : Rcv) :
    (r.asmIdle).mode = r.mode := rfl

@[simp] theorem Rcv.asmIdle_fault (r : Rcv) :
    (r.asmIdle).fault = r.fault := rfl

@[simp] theorem Rcv.asmIdle_expected (r : Rcv) :
    (r.asmIdle).expected = r.expected := rfl

@[simp] theorem Rcv.asmIdle_asmActive (r : Rcv) :
    (r.asmIdle).asmActive = false := rfl

@[simp] theorem Rcv.asmIdle_asmSize (r : Rcv) :
    (r.asmIdle).asmSize = 0 := rfl

@[simp] theorem Rcv.asmIdle_asmOff (r : Rcv) :
    (r.asmIdle).asmOff = 0 := rfl

@[simp] theorem Rcv.asmIdle_occ (r : Rcv) :
    (r.asmIdle).occ = r.occ := rfl

@[simp] theorem Rcv.asmIdle_rwin (r : Rcv) :
    (r.asmIdle).rwin = r.rwin := rfl

@[simp] theorem Rcv.asmIdle_asmBuf (r : Rcv) :
    (r.asmIdle).asmBuf = r.asmBuf := rfl

/-! `Rcv.asmWrite`: bytes of `asm_buf`. -/

@[simp] theorem Rcv.asmWrite_mode (off : Nat) (bytes : List Byte) (r : Rcv) :
    (r.asmWrite off bytes).mode = r.mode := rfl

@[simp] theorem Rcv.asmWrite_fault (off : Nat) (bytes : List Byte) (r : Rcv) :
    (r.asmWrite off bytes).fault = r.fault := rfl

@[simp] theorem Rcv.asmWrite_expected (off : Nat) (bytes : List Byte) (r : Rcv) :
    (r.asmWrite off bytes).expected = r.expected := rfl

@[simp] theorem Rcv.asmWrite_asmActive (off : Nat) (bytes : List Byte) (r : Rcv) :
    (r.asmWrite off bytes).asmActive = r.asmActive := rfl

@[simp] theorem Rcv.asmWrite_asmSize (off : Nat) (bytes : List Byte) (r : Rcv) :
    (r.asmWrite off bytes).asmSize = r.asmSize := rfl

@[simp] theorem Rcv.asmWrite_asmOff (off : Nat) (bytes : List Byte) (r : Rcv) :
    (r.asmWrite off bytes).asmOff = r.asmOff := rfl

@[simp] theorem Rcv.asmWrite_occ (off : Nat) (bytes : List Byte) (r : Rcv) :
    (r.asmWrite off bytes).occ = r.occ := rfl

@[simp] theorem Rcv.asmWrite_rwin (off : Nat) (bytes : List Byte) (r : Rcv) :
    (r.asmWrite off bytes).rwin = r.rwin := rfl

@[simp] theorem Rcv.asmWrite_asmBuf (off : Nat) (bytes : List Byte) (r : Rcv) :
    (r.asmWrite off bytes).asmBuf = r.asmBuf.writeBytes off bytes := rfl

/-! `Rcv.store`: a slot and its flag. -/

@[simp] theorem Rcv.store_mode (c : Config) (k : Word) (f : Frame) (r : Rcv) :
    (r.store c k f).mode = r.mode := rfl

@[simp] theorem Rcv.store_fault (c : Config) (k : Word) (f : Frame) (r : Rcv) :
    (r.store c k f).fault = r.fault := rfl

@[simp] theorem Rcv.store_expected (c : Config) (k : Word) (f : Frame) (r : Rcv) :
    (r.store c k f).expected = r.expected := rfl

@[simp] theorem Rcv.store_asmActive (c : Config) (k : Word) (f : Frame) (r : Rcv) :
    (r.store c k f).asmActive = r.asmActive := rfl

@[simp] theorem Rcv.store_asmSize (c : Config) (k : Word) (f : Frame) (r : Rcv) :
    (r.store c k f).asmSize = r.asmSize := rfl

@[simp] theorem Rcv.store_asmOff (c : Config) (k : Word) (f : Frame) (r : Rcv) :
    (r.store c k f).asmOff = r.asmOff := rfl

@[simp] theorem Rcv.store_occ (c : Config) (k : Word) (f : Frame) (r : Rcv) :
    (r.store c k f).occ = Store.write false r.occ (slotOf c k) true := rfl

@[simp] theorem Rcv.store_rwin (c : Config) (k : Word) (f : Frame) (r : Rcv) :
    (r.store c k f).rwin = Store.write (blankFrame c) r.rwin (slotOf c k) f := rfl

@[simp] theorem Rcv.store_asmBuf (c : Config) (k : Word) (f : Frame) (r : Rcv) :
    (r.store c k f).asmBuf = r.asmBuf := rfl

/-! `Rcv.fresh`: every register and flag but the mode and the fault register; the stores stay. -/

@[simp] theorem Rcv.fresh_mode (r : Rcv) :
    (r.fresh).mode = r.mode := rfl

@[simp] theorem Rcv.fresh_fault (r : Rcv) :
    (r.fresh).fault = r.fault := rfl

@[simp] theorem Rcv.fresh_expected (r : Rcv) :
    (r.fresh).expected = 0 := rfl

@[simp] theorem Rcv.fresh_asmActive (r : Rcv) :
    (r.fresh).asmActive = false := rfl

@[simp] theorem Rcv.fresh_asmSize (r : Rcv) :
    (r.fresh).asmSize = 0 := rfl

@[simp] theorem Rcv.fresh_asmOff (r : Rcv) :
    (r.fresh).asmOff = 0 := rfl

@[simp] theorem Rcv.fresh_occ (r : Rcv) :
    (r.fresh).occ = [] := rfl

@[simp] theorem Rcv.fresh_rwin (r : Rcv) :
    (r.fresh).rwin = r.rwin := rfl

@[simp] theorem Rcv.fresh_asmBuf (r : Rcv) :
    (r.fresh).asmBuf = r.asmBuf := rfl

/-! `Rcv.final`: the registers the spec leaves unspecified get free values. -/

@[simp] theorem Rcv.final_mode (n : Nat) (r : Rcv) :
    (r.final n).mode = r.mode := rfl

@[simp] theorem Rcv.final_fault (n : Nat) (r : Rcv) :
    (r.final n).fault = r.fault := rfl

@[simp] theorem Rcv.final_expected (n : Nat) (r : Rcv) :
    (r.final n).expected = Config.freeRcvWord n := rfl

@[simp] theorem Rcv.final_asmActive (n : Nat) (r : Rcv) :
    (r.final n).asmActive = false := rfl

@[simp] theorem Rcv.final_asmSize (n : Nat) (r : Rcv) :
    (r.final n).asmSize = Config.freeRcvWord (n + 1) := rfl

@[simp] theorem Rcv.final_asmOff (n : Nat) (r : Rcv) :
    (r.final n).asmOff = Config.freeRcvWord (n + 2) := rfl

@[simp] theorem Rcv.final_occ (n : Nat) (r : Rcv) :
    (r.final n).occ = [] := rfl

@[simp] theorem Rcv.final_rwin (n : Nat) (r : Rcv) :
    (r.final n).rwin = r.rwin := rfl

@[simp] theorem Rcv.final_asmBuf (n : Nat) (r : Rcv) :
    (r.final n).asmBuf = r.asmBuf := rfl

/-! `State.setLife` on SND: the mode and the fault register of that unit. -/

@[simp] theorem State.setLife_snd_snd (s : State) (m : Mode) (f : Byte) :
    (s.setLife .snd m f).snd = { s.snd with mode := m, fault := f } := rfl

@[simp] theorem State.setLife_snd_cfg (s : State) (m : Mode) (f : Byte) :
    (s.setLife .snd m f).cfg = s.cfg := rfl

@[simp] theorem State.setLife_snd_rcv (s : State) (m : Mode) (f : Byte) :
    (s.setLife .snd m f).rcv = s.rcv := rfl

@[simp] theorem State.setLife_snd_inbox (s : State) (m : Mode) (f : Byte) :
    (s.setLife .snd m f).inbox = s.inbox := rfl

@[simp] theorem State.setLife_snd_outbox (s : State) (m : Mode) (f : Byte) :
    (s.setLife .snd m f).outbox = s.outbox := rfl

@[simp] theorem State.setLife_snd_result (s : State) (m : Mode) (f : Byte) :
    (s.setLife .snd m f).result = s.result := rfl

@[simp] theorem State.setLife_snd_sndFree (s : State) (m : Mode) (f : Byte) :
    (s.setLife .snd m f).sndFree = s.sndFree := rfl

@[simp] theorem State.setLife_snd_rcvFree (s : State) (m : Mode) (f : Byte) :
    (s.setLife .snd m f).rcvFree = s.rcvFree := rfl

/-! `State.setLife` on RCV: the mode and the fault register of that unit. -/

@[simp] theorem State.setLife_rcv_rcv (s : State) (m : Mode) (f : Byte) :
    (s.setLife .rcv m f).rcv = { s.rcv with mode := m, fault := f } := rfl

@[simp] theorem State.setLife_rcv_cfg (s : State) (m : Mode) (f : Byte) :
    (s.setLife .rcv m f).cfg = s.cfg := rfl

@[simp] theorem State.setLife_rcv_snd (s : State) (m : Mode) (f : Byte) :
    (s.setLife .rcv m f).snd = s.snd := rfl

@[simp] theorem State.setLife_rcv_inbox (s : State) (m : Mode) (f : Byte) :
    (s.setLife .rcv m f).inbox = s.inbox := rfl

@[simp] theorem State.setLife_rcv_outbox (s : State) (m : Mode) (f : Byte) :
    (s.setLife .rcv m f).outbox = s.outbox := rfl

@[simp] theorem State.setLife_rcv_result (s : State) (m : Mode) (f : Byte) :
    (s.setLife .rcv m f).result = s.result := rfl

@[simp] theorem State.setLife_rcv_sndFree (s : State) (m : Mode) (f : Byte) :
    (s.setLife .rcv m f).sndFree = s.sndFree := rfl

@[simp] theorem State.setLife_rcv_rcvFree (s : State) (m : Mode) (f : Byte) :
    (s.setLife .rcv m f).rcvFree = s.rcvFree := rfl

/-! What fault entry does (60_exceptions.md R262). -/

@[simp] theorem raise_snd (r : Raise) (s : State) :
    raise .snd r s =
      { s with
        snd := { s.snd with mode := .halted, fault := r.cause.code }
        outbox := s.outbox ++ [.fault r] } := rfl

@[simp] theorem raise_rcv (r : Raise) (s : State) :
    raise .rcv r s =
      { s with
        rcv := { s.rcv with mode := .halted, fault := r.cause.code }
        outbox := s.outbox ++ [.fault r] } := rfl

/-- No fatal fault has code 0: a fault register that is 0 records none (10_state.md R40). -/
theorem Fatal.code_ne_zero (x : Fatal) : x.code ≠ 0 := by cases x <;> decide

/-! What the end of an operation does. -/

@[simp] theorem State.endSnd_cfg (s : State) (p : Progress Snd) : (s.endSnd p).cfg = s.cfg := by
  unfold State.endSnd; cases p.raised <;> rfl

@[simp] theorem State.endSnd_rcv (s : State) (p : Progress Snd) : (s.endSnd p).rcv = s.rcv := by
  unfold State.endSnd; cases p.raised <;> rfl

@[simp] theorem State.endSnd_inbox (s : State) (p : Progress Snd) : (s.endSnd p).inbox = s.inbox := by
  unfold State.endSnd; cases p.raised <;> rfl

@[simp] theorem State.endSnd_result (s : State) (p : Progress Snd) : (s.endSnd p).result = none := by
  unfold State.endSnd; cases p.raised <;> rfl

@[simp] theorem State.endSnd_sndFree (s : State) (p : Progress Snd) :
    (s.endSnd p).sndFree = s.sndFree := by
  unfold State.endSnd; cases p.raised <;> rfl

@[simp] theorem State.endSnd_rcvFree (s : State) (p : Progress Snd) :
    (s.endSnd p).rcvFree = s.rcvFree := by
  unfold State.endSnd; cases p.raised <;> rfl

theorem State.endSnd_outbox (s : State) (p : Progress Snd) :
    (s.endSnd p).outbox = p.out ++ p.raised.toList.map .fault := by
  unfold State.endSnd; cases p.raised <;> simp

theorem State.endSnd_snd (s : State) (p : Progress Snd) :
    (s.endSnd p).snd =
      match p.raised with
      | none => p.unit
      | some r => { p.unit with mode := .halted, fault := r.cause.code } := by
  unfold State.endSnd; cases p.raised <;> rfl

@[simp] theorem State.endRcv_cfg (s : State) (p : Progress Rcv) : (s.endRcv p).cfg = s.cfg := by
  unfold State.endRcv; cases p.raised <;> rfl

@[simp] theorem State.endRcv_snd (s : State) (p : Progress Rcv) : (s.endRcv p).snd = s.snd := by
  unfold State.endRcv; cases p.raised <;> rfl

@[simp] theorem State.endRcv_inbox (s : State) (p : Progress Rcv) : (s.endRcv p).inbox = s.inbox := by
  unfold State.endRcv; cases p.raised <;> rfl

@[simp] theorem State.endRcv_result (s : State) (p : Progress Rcv) : (s.endRcv p).result = none := by
  unfold State.endRcv; cases p.raised <;> rfl

@[simp] theorem State.endRcv_sndFree (s : State) (p : Progress Rcv) :
    (s.endRcv p).sndFree = s.sndFree := by
  unfold State.endRcv; cases p.raised <;> rfl

@[simp] theorem State.endRcv_rcvFree (s : State) (p : Progress Rcv) :
    (s.endRcv p).rcvFree = s.rcvFree := by
  unfold State.endRcv; cases p.raised <;> rfl

theorem State.endRcv_outbox (s : State) (p : Progress Rcv) :
    (s.endRcv p).outbox = p.out ++ p.raised.toList.map .fault := by
  unfold State.endRcv; cases p.raised <;> simp

theorem State.endRcv_rcv (s : State) (p : Progress Rcv) :
    (s.endRcv p).rcv =
      match p.raised with
      | none => p.unit
      | some r => { p.unit with mode := .halted, fault := r.cause.code } := by
  unfold State.endRcv; cases p.raised <;> rfl

/-! What the two guards let through. -/

/-- Everything the mode guard can answer with a next state. -/
theorem guardMode_next {m : Mode} {s b t : State} (h : guardMode m s b = .next t) :
    (m = .halted ∧ t = s.settle []) ∨ (m = .ready ∧ t = b) := by
  cases m <;> simp_all [guardMode]

/-- An operation that answers a next state had operands of its types, and ran its body. -/
theorem withOperands_next {i : Instr} {s t : State} {b : Host.Outcome State Fault Refusal}
    (h : withOperands i s b = .next t) : i.wf s.cfg = true ∧ b = .next t := by
  unfold withOperands at h; split at h <;> simp_all

theorem withOperands_wf {i : Instr} {s : State} {b : Host.Outcome State Fault Refusal}
    (h : i.wf s.cfg = true) : withOperands i s b = b := by simp [withOperands, h]

end Sys2Proof.Machine
end

