-- ==== Sys2Proof/Laws/Store.lean ====
section
/-! SUPPORT. The basic laws of stores and memories: a read after a write, the canonical form kept, and equal
reads of canonical stores being equal data. -/

namespace Sys2Proof.Machine

namespace Store

variable {α : Type}

theorem read_of_lt {d : α} {m : Store α} {k : Nat} (h : ∀ p ∈ m, k < p.1) : read d m k = d := by
  induction m with
  | nil => rfl
  | cons p rest ih =>
    obtain ⟨j, v⟩ := p
    have hj : k < j := h (j, v) (by simp)
    simp [read, (Nat.ne_of_gt hj), ih fun q hq => h q (by simp [hq])]

/-- A cell that does not read as the default is on the list. -/
theorem mem_of_read_ne {d : α} {m : Store α} {k : Nat} (h : read d m k ≠ d) : (k, read d m k) ∈ m := by
  induction m with
  | nil => simp [read] at h
  | cons p rest ih =>
    obtain ⟨j, w⟩ := p
    by_cases hj : j = k
    · subst hj; simp [read]
    · simp only [read, if_neg hj] at h ⊢
      exact List.mem_cons_of_mem _ (ih h)

/-- A cell on a canonical list reads as it stands there. -/
theorem read_of_mem {d : α} {m : Store α} (hm : wf d m) {p : Nat × α} (h : p ∈ m) :
    read d m p.1 = p.2 := by
  induction m with
  | nil => simp at h
  | cons q rest ih =>
    obtain ⟨j, w⟩ := q
    rcases List.mem_cons.1 h with rfl | h
    · simp [read]
    · have hj : j < p.1 := (List.pairwise_cons.1 hm.1).1 p h
      simp only [read, if_neg (Nat.ne_of_lt hj)]
      exact ih ⟨hm.1.tail, fun q hq => hm.2 q (by simp [hq])⟩ h

variable [DecidableEq α]

/-- A read after a write to the same cell gives the value written. -/
theorem read_write_same {d : α} {m : Store α} (hm : wf d m) (k : Nat) (v : α) :
    read d (write d m k v) k = v := by
  induction m with
  | nil => by_cases hv : v = d <;> simp [write, read, hv]
  | cons p rest ih =>
    obtain ⟨j, w⟩ := p
    have hrest : wf d rest := ⟨hm.1.tail, fun q hq => hm.2 q (by simp [hq])⟩
    have hlt : ∀ q ∈ rest, j < q.1 := (List.pairwise_cons.1 hm.1).1
    by_cases h1 : j < k
    · simp [write, h1, read, Nat.ne_of_lt h1, ih hrest]
    · by_cases h2 : j = k
      · subst h2
        by_cases hv : v = d
        · simp [write, hv, read_of_lt hlt]
        · simp [write, hv, read]
      · have h3 : k < j := by omega
        by_cases hv : v = d
        · subst hv
          simp only [write, if_neg h1, if_neg h2, if_pos]
          exact read_of_lt fun q hq => by
            rcases List.mem_cons.1 hq with rfl | hq
            · exact h3
            · exact h3.trans (hlt q hq)
        · simp [write, h1, h2, hv, read]

/-- A write leaves every other cell alone. -/
theorem read_write_other {d : α} {m : Store α} {k j : Nat} (h : j ≠ k) (v : α) :
    read d (write d m k v) j = read d m j := by
  induction m with
  | nil => by_cases hv : v = d <;> simp [write, read, hv, Ne.symm h]
  | cons p rest ih =>
    obtain ⟨i, w⟩ := p
    by_cases h1 : i < k
    · simp [write, h1, read, ih]
    · by_cases h2 : i = k
      · subst h2
        by_cases hv : v = d <;> simp [write, hv, read, Ne.symm h]
      · by_cases hv : v = d <;> simp [write, h1, h2, hv, read, Ne.symm h]

/-- Where the cells of a written store come from. -/
theorem mem_write {d : α} {m : Store α} {k : Nat} {v : α} {p : Nat × α} (h : p ∈ write d m k v) :
    p = (k, v) ∨ p ∈ m := by
  induction m with
  | nil => by_cases hv : v = d <;> simp_all [write]
  | cons q rest ih =>
    obtain ⟨i, w⟩ := q
    simp only [write] at h
    split at h
    · rcases List.mem_cons.1 h with rfl | h
      · simp
      · rcases ih h with h | h <;> simp [h]
    · split at h
      · split at h
        · simp [h]
        · rcases List.mem_cons.1 h with h | h <;> simp [h]
      · split at h
        · simp [List.mem_cons.1 h]
        · rcases List.mem_cons.1 h with h | h
          · simp [h]
          · simp [List.mem_cons.1 h]

/-- A write keeps the canonical form. -/
theorem write_wf {d : α} {m : Store α} (hm : wf d m) (k : Nat) (v : α) : wf d (write d m k v) := by
  induction m with
  | nil => by_cases hv : v = d <;> simp [write, wf, hv]
  | cons p rest ih =>
    obtain ⟨j, w⟩ := p
    have hrest : wf d rest := ⟨hm.1.tail, fun q hq => hm.2 q (by simp [hq])⟩
    have hlt : ∀ q ∈ rest, j < q.1 := (List.pairwise_cons.1 hm.1).1
    have hw : w ≠ d := hm.2 (j, w) (by simp)
    simp only [write]
    split
    · rename_i h1
      refine ⟨List.pairwise_cons.2 ⟨fun q hq => ?_, (ih hrest).1⟩, fun q hq => ?_⟩
      · rcases mem_write hq with rfl | hq
        · exact h1
        · exact hlt q hq
      · rcases List.mem_cons.1 hq with rfl | hq
        · exact hw
        · exact (ih hrest).2 q hq
    · split
      · rename_i h1 h2
        subst h2
        split
        · exact hrest
        · rename_i hv
          exact ⟨List.pairwise_cons.2 ⟨hlt, hrest.1⟩, fun q hq => by
            rcases List.mem_cons.1 hq with rfl | hq
            · exact hv
            · exact hrest.2 q hq⟩
      · rename_i h1 h2
        split
        · exact hm
        · rename_i hv
          refine ⟨List.pairwise_cons.2 ⟨fun q hq => ?_, hm.1⟩, fun q hq => ?_⟩
          · rcases List.mem_cons.1 hq with rfl | hq
            · show k < j
              omega
            · exact Nat.lt_trans (by omega : k < j) (hlt q hq)
          · rcases List.mem_cons.1 hq with rfl | hq
            · exact hv
            · exact hm.2 q hq

theorem foldl_write_wf {d : α} (cells : List (Nat × α)) {m : Store α} (hm : wf d m) :
    wf d (cells.foldl (fun m p => write d m p.1 p.2) m) := by
  induction cells generalizing m with
  | nil => exact hm
  | cons p rest ih => exact ih (write_wf hm _ _)

/-- A store made from any cells is in canonical form. -/
theorem ofCells_wf (d : α) (bound : Nat) (cells : List (Nat × α)) : wf d (ofCells d bound cells) :=
  foldl_write_wf _ (by simp [wf])

theorem mem_foldl_write {d : α} {cells : List (Nat × α)} {m : Store α} {p : Nat × α}
    (h : p ∈ cells.foldl (fun m p => write d m p.1 p.2) m) : p ∈ cells ∨ p ∈ m := by
  induction cells generalizing m with
  | nil => exact .inr h
  | cons q rest ih =>
    rcases ih h with h | h
    · simp [h]
    · rcases mem_write h with rfl | h <;> simp_all

/-- Every cell of a store made from cells is one of them, below the bound. -/
theorem mem_ofCells {d : α} {bound : Nat} {cells : List (Nat × α)} {p : Nat × α}
    (h : p ∈ ofCells d bound cells) : p ∈ cells ∧ p.1 < bound := by
  rcases mem_foldl_write h with h | h
  · simpa using h
  · simp at h

end Store

namespace Memory

theorem write_wf {m : Memory} (hm : m.wf) (a : Nat) (b : Byte) : (m.write a b).wf :=
  Store.write_wf hm a b

theorem read_write_same {m : Memory} (hm : m.wf) (a : Nat) (b : Byte) : (m.write a b).read a = b :=
  Store.read_write_same hm a b

theorem read_write_other {m : Memory} {a x : Nat} (h : x ≠ a) (b : Byte) :
    (m.write a b).read x = m.read x := Store.read_write_other h b

/-- A copy keeps the canonical form. -/
theorem writeBytes_wf {m : Memory} (hm : m.wf) (off : Nat) (bytes : List Byte) :
    (m.writeBytes off bytes).wf := by
  induction bytes generalizing m off with
  | nil => exact hm
  | cons b rest ih => exact ih (write_wf hm off b) (off + 1)

/-- A copy leaves every byte outside its range alone. -/
theorem read_writeBytes_other {m : Memory} {off x : Nat} {bytes : List Byte}
    (h : x < off ∨ off + bytes.length ≤ x) : (m.writeBytes off bytes).read x = m.read x := by
  induction bytes generalizing m off with
  | nil => rfl
  | cons b rest ih =>
    simp only [List.length_cons] at h
    rw [writeBytes, ih (by omega), read_write_other (by omega)]

/-- A byte of the range of a copy reads as the byte copied there. -/
theorem read_writeBytes {m : Memory} (hm : m.wf) {off : Nat} {bytes : List Byte} {k : Nat}
    (h : k < bytes.length) : (m.writeBytes off bytes).read (off + k) = bytes[k] := by
  induction bytes generalizing m off k with
  | nil => simp at h
  | cons b rest ih =>
    cases k with
    | zero =>
      simp only [writeBytes, Nat.add_zero, List.getElem_cons_zero]
      rw [read_writeBytes_other (by omega), read_write_same hm]
    | succ k =>
      simp only [List.length_cons, Nat.add_lt_add_iff_right] at h
      have := ih (m := m.write off b) (write_wf hm off b) (off := off + 1) h
      simpa [writeBytes, Nat.add_assoc, Nat.add_comm 1] using this

/-- Where the cells of a copy come from. -/
theorem mem_writeBytes {m : Memory} {off : Nat} {bytes : List Byte} {p : Host.Cell}
    (h : p ∈ m.writeBytes off bytes) : (off ≤ p.1 ∧ p.1 < off + bytes.length) ∨ p ∈ m := by
  induction bytes generalizing m off with
  | nil => exact .inr h
  | cons b rest ih =>
    rcases ih h with h | h
    · simp only [List.length_cons]; omega
    · rcases Store.mem_write h with rfl | h
      · simp
      · exact .inr h

@[simp] theorem length_readBytes (m : Memory) (off n : Nat) : (m.readBytes off n).length = n := by
  simp [readBytes]

end Memory

end Sys2Proof.Machine
end

