-- ==== Sys2Proof/Laws/Receiver.lean ====
section
/-! SUPPORT. What RCV's procedures can do, said once: callers cite these and do not unfold the procedures. -/

namespace Sys2Proof.Machine

/-- What CONSUME never writes: the mode, the fault register, `expected`, the flags and the window
(43_receiver.md R215). -/
structure Rcv.SameOutsideAsm (r v : Rcv) : Prop where
  mode : v.mode = r.mode
  fault : v.fault = r.fault
  expected : v.expected = r.expected
  occ : v.occ = r.occ
  rwin : v.rwin = r.rwin

theorem Rcv.SameOutsideAsm.refl (r : Rcv) : r.SameOutsideAsm r := ⟨rfl, rfl, rfl, rfl, rfl⟩

/-- The completion test of CONSUME: deliver and go Idle, or keep the accumulator (43_receiver.md R215). -/
theorem Rcv.deliverIfComplete_cases (r : Rcv) :
    (r.asmOff = r.asmSize ∧
      r.deliverIfComplete = ⟨r.asmIdle, [.deliverMessage r.asmSize (r.asmPrefix r.asmSize.toNat)], none⟩) ∨
    (r.asmOff ≠ r.asmSize ∧ r.deliverIfComplete = ⟨r, [], none⟩) := by
  unfold Rcv.deliverIfComplete
  by_cases h : r.asmOff = r.asmSize
  · exact .inl ⟨h, by simp [h]⟩
  · exact .inr ⟨h, by simp [h]⟩

/-- A first fragment CONSUME accepts (43_receiver.md R215): the conditions, and the accumulator it opens. -/
theorem Rcv.consumeFirst_cases (c : Config) (r : Rcv) (p : Fields) :
    r.consumeFirst c p = ⟨r, [], some r.malformed⟩ ∨
    (4 ≤ p.plen.toNat ∧ (le32 p.payload 0).toNat ≤ c.msgMax ∧
      p.plen.toNat - 4 ≤ (le32 p.payload 0).toNat ∧
      (p.plen.toNat - 4 = 0 → (le32 p.payload 0).toNat = 0) ∧
      r.consumeFirst c p =
        ({ r.asmWrite 0 (bytesFrom p.payload 4 (p.plen.toNat - 4)) with
          asmSize := le32 p.payload 0
          asmOff := BitVec.ofNat 32 (p.plen.toNat - 4)
          asmActive := true } : Rcv).deliverIfComplete) := by
  unfold Rcv.consumeFirst
  by_cases h1 : p.plen.toNat < 4
  · simp [h1]
  · by_cases h2 : c.msgMax < (le32 p.payload 0).toNat
    · simp [h1, h2]
    · by_cases h3 : (le32 p.payload 0).toNat < p.plen.toNat - 4
      · simp [h1, h2, h3]
      · by_cases h4 : p.plen.toNat - 4 = 0 ∧ 0 < (le32 p.payload 0).toNat
        · simp [h1, h2, h4]
        · refine .inr ⟨by omega, by omega, by omega, by omega, ?_⟩
          simp only [h1, h2, h3, h4, if_false]

/-- A continuation fragment CONSUME accepts (43_receiver.md R215). -/
theorem Rcv.consumeNext_cases (r : Rcv) (p : Fields) :
    (r.asmSize.toNat < r.asmOff.toNat + p.plen.toNat ∧ r.consumeNext p = ⟨r, [], some r.malformed⟩) ∨
    (r.asmOff.toNat + p.plen.toNat ≤ r.asmSize.toNat ∧
      r.consumeNext p =
        ({ r.asmWrite r.asmOff.toNat (bytesFrom p.payload 0 p.plen.toNat) with
          asmOff := r.asmOff + BitVec.ofNat 32 p.plen.toNat } : Rcv).deliverIfComplete) := by
  unfold Rcv.consumeNext
  by_cases h : r.asmSize.toNat < r.asmOff.toNat + p.plen.toNat
  · exact .inl ⟨h, by simp [h]⟩
  · exact .inr ⟨by omega, by simp [h]⟩

theorem Rcv.deliverIfComplete_frame (r : Rcv) :
    r.SameOutsideAsm r.deliverIfComplete.unit ∧ r.deliverIfComplete.raised = none := by
  rcases r.deliverIfComplete_cases with ⟨_, e⟩ | ⟨_, e⟩ <;> rw [e] <;>
    exact ⟨⟨rfl, rfl, rfl, rfl, rfl⟩, rfl⟩

/-- CONSUME either refuses the frame, with the receiver as it was, or changes the accumulator alone
(43_receiver.md R215). -/
theorem Rcv.consume_cases (c : Config) (r : Rcv) (g : Frame) :
    r.consume c g = ⟨r, [], some r.malformed⟩ ∨
    ((r.consume c g).raised = none ∧ r.SameOutsideAsm (r.consume c g).unit) := by
  unfold Rcv.consume
  by_cases h : c.maxPayload < (frmParse g).plen.toNat
  · simp [h]
  · simp only [h, if_false]
    cases r.asmActive with
    | true =>
      rcases r.consumeNext_cases (frmParse g) with ⟨_, e⟩ | ⟨_, e⟩
      · simp [e]
      · simp only [if_true, e]
        have hd := Rcv.deliverIfComplete_frame
          { r.asmWrite r.asmOff.toNat (bytesFrom (frmParse g).payload 0 (frmParse g).plen.toNat) with
            asmOff := r.asmOff + BitVec.ofNat 32 (frmParse g).plen.toNat }
        exact .inr ⟨hd.2, hd.1.mode, hd.1.fault, hd.1.expected, hd.1.occ, hd.1.rwin⟩
    | false =>
      rcases r.consumeFirst_cases c (frmParse g) with e | ⟨_, _, _, _, e⟩
      · simp [e]
      · simp only [Bool.false_eq_true, if_false, e]
        have hd := Rcv.deliverIfComplete_frame
          { r.asmWrite 0 (bytesFrom (frmParse g).payload 4 ((frmParse g).plen.toNat - 4)) with
            asmSize := le32 (frmParse g).payload 0
            asmOff := BitVec.ofNat 32 ((frmParse g).plen.toNat - 4)
            asmActive := true }
        exact .inr ⟨hd.2, hd.1.mode, hd.1.fault, hd.1.expected, hd.1.occ, hd.1.rwin⟩

/-- CONSUME emits at most one item, a delivery (43_receiver.md R215). -/
theorem Rcv.consume_out (c : Config) (r : Rcv) (g : Frame) :
    (r.consume c g).out = [] ∨ ∃ len data, (r.consume c g).out = [.deliverMessage len data] := by
  have hd : ∀ v : Rcv, v.deliverIfComplete.out = [] ∨
      ∃ len data, v.deliverIfComplete.out = [.deliverMessage len data] := fun v => by
    rcases v.deliverIfComplete_cases with ⟨_, e⟩ | ⟨_, e⟩ <;> simp [e]
  unfold Rcv.consume
  by_cases h : c.maxPayload < (frmParse g).plen.toNat
  · simp [h]
  · simp only [h, if_false]
    cases r.asmActive with
    | true =>
      rcases r.consumeNext_cases (frmParse g) with ⟨_, e⟩ | ⟨_, e⟩
      · simp [e]
      · simp only [if_true, e]; exact hd _
    | false =>
      rcases r.consumeFirst_cases c (frmParse g) with e | ⟨_, _, _, _, e⟩
      · simp [e]
      · simp only [Bool.false_eq_true, if_false, e]; exact hd _

/-- The two recoverable conditions of RCV.FRAME and their order (60_exceptions.md R267). -/
theorem Rcv.frameCondition_cases (c : Config) (r : Rcv) (f : Frame) :
    (chkValidate c f = false ∧ r.frameCondition c f = some .corruption) ∨
    (chkValidate c f = true ∧ r.inWindow c (frmParse f).seq = false ∧
      r.frameCondition c f = some .outOfWindow) ∨
    (chkValidate c f = true ∧ r.inWindow c (frmParse f).seq = true ∧ r.frameCondition c f = none) := by
  unfold Rcv.frameCondition
  cases chkValidate c f <;> cases r.inWindow c (frmParse f).seq <;> simp

/-- One turn of DRAIN: the gap is reached, or the frame is refused, or it is consumed and DRAIN goes on
(43_receiver.md R214). -/
theorem Rcv.drain_step (c : Config) (k : Nat) (r : Rcv) :
    let r' := r.setOcc c r.expected false
    let p := r'.consume c (r.rwinAt c r.expected)
    (r.occAt c r.expected = false ∧ Rcv.drain c (k + 1) r = ⟨r, [], none⟩) ∨
    (r.occAt c r.expected = true ∧ p = ⟨r', [], some r.malformed⟩ ∧
      Rcv.drain c (k + 1) r = ⟨r', [], some r.malformed⟩) ∨
    (r.occAt c r.expected = true ∧ p.raised = none ∧ r'.SameOutsideAsm p.unit ∧
      Rcv.drain c (k + 1) r =
        let rest := Rcv.drain c k { p.unit with expected := p.unit.expected + 1 }
        { rest with out := p.out ++ rest.out }) := by
  intro r' p
  have hd : Rcv.drain c (k + 1) r =
      if r.occAt c r.expected then
        match p.raised with
        | some x => ⟨p.unit, p.out, some x⟩
        | none =>
          let rest := Rcv.drain c k { p.unit with expected := p.unit.expected + 1 }
          { rest with out := p.out ++ rest.out }
      else ⟨r, [], none⟩ := rfl
  rw [hd]
  cases h : r.occAt c r.expected with
  | false => exact .inl ⟨rfl, by simp⟩
  | true =>
    rcases r'.consume_cases c (r.rwinAt c r.expected) with e | ⟨h1, h2⟩
    · have ep : p = ⟨r', [], some r.malformed⟩ := e
      exact .inr (.inl ⟨rfl, ep, by simp [ep]⟩)
    · have hp : p.raised = none := h1
      exact .inr (.inr ⟨rfl, hp, h2, by simp [hp]⟩)

/-- DRAIN never writes the mode, the fault register or the window (43_receiver.md R214). -/
theorem Rcv.drain_frame (c : Config) (k : Nat) (r : Rcv) :
    (Rcv.drain c k r).unit.mode = r.mode ∧ (Rcv.drain c k r).unit.fault = r.fault ∧
    (Rcv.drain c k r).unit.rwin = r.rwin := by
  induction k generalizing r with
  | zero => exact ⟨rfl, rfl, rfl⟩
  | succ k ih =>
    rcases r.drain_step c k with ⟨_, e⟩ | ⟨_, _, e⟩ | ⟨_, _, h, e⟩
    · rw [e]; exact ⟨rfl, rfl, rfl⟩
    · rw [e]; exact ⟨rfl, rfl, rfl⟩
    · rw [e]
      have hi := ih { ((r.setOcc c r.expected false).consume c (r.rwinAt c r.expected)).unit with
        expected := ((r.setOcc c r.expected false).consume c (r.rwinAt c r.expected)).unit.expected + 1 }
      exact ⟨hi.1.trans h.mode, hi.2.1.trans h.fault, hi.2.2.trans h.rwin⟩

/-- The only `raise` of DRAIN is `RxMalformed`, with the number of the frame it stopped at (43_receiver.md R215). -/
theorem Rcv.drain_raise {c : Config} {k : Nat} {r : Rcv} {x : Raise}
    (h : (Rcv.drain c k r).raised = some x) : x = ⟨.rxMalformed, (Rcv.drain c k r).unit.expected⟩ := by
  induction k generalizing r with
  | zero => simp [Rcv.drain] at h
  | succ k ih =>
    rcases r.drain_step c k with ⟨_, e⟩ | ⟨_, _, e⟩ | ⟨_, _, _, e⟩
    · rw [e] at h; simp at h
    · rw [e] at h ⊢
      simp only [Option.some.injEq] at h
      subst h
      rfl
    · rw [e] at h ⊢
      exact ih h

end Sys2Proof.Machine
end

