-- ==== Sys2Proof/Laws/Reset.lean ====
section
/-! SUPPORT. What the free contents of stores after the reset input satisfy: the canonical form and the bounds of the
stores, whatever the free values are. -/

namespace Sys2Proof.Machine

@[simp] theorem length_blankFrame (c : Config) : (blankFrame c).length = c.frameSize := by
  simp [blankFrame]

@[simp] theorem length_fitFrame (c : Config) (f : Frame) : (fitFrame c f).length = c.frameSize := by
  simp [fitFrame]

/-- A free window store is in canonical form. -/
theorem windowOf_wf (c : Config) (cells : List (Nat × Frame)) :
    Store.wf (blankFrame c) (windowOf c cells) := Store.ofCells_wf _ _ _

/-- A free window store holds whole frames in slots below `W`. -/
theorem mem_windowOf {c : Config} {cells : List (Nat × Frame)} {p : Nat × Frame}
    (h : p ∈ windowOf c cells) : p.1 < c.window ∧ p.2.length = c.frameSize := by
  obtain ⟨h1, h2⟩ := Store.mem_ofCells h
  refine ⟨h2, ?_⟩
  obtain ⟨q, _, rfl⟩ := List.mem_map.1 h1
  simp

/-- The free flags are in canonical form, below `W`. -/
theorem freeOcc_wf (c : Config) (n : Nat) :
    Store.wf false (freeOcc c n) ∧ ∀ p ∈ freeOcc c n, p.1 < c.window :=
  ⟨Store.ofCells_wf _ _ _, fun _ h => (Store.mem_ofCells h).2⟩

end Sys2Proof.Machine
end

