-- ==== Sys2Proof/Laws/Sender.lean ====
section
/-! SUPPORT. What SND's procedures can do, said once: callers cite these and do not unfold the procedures. -/

namespace Sys2Proof.Machine

/-- The registers WINDOW_FILL and TRANSMIT never write: the mode, the fault register, `ack_expected`, `msg_next`
and `tmr_run` (10_state.md R23, R27, R36, R37, R40). -/
structure Snd.SameOutside (u v : Snd) : Prop where
  mode : v.mode = u.mode
  fault : v.fault = u.fault
  ackExpected : v.ackExpected = u.ackExpected
  msgNext : v.msgNext = u.msgNext
  tmrRun : v.tmrRun = u.tmrRun

theorem Snd.SameOutside.refl (u : Snd) : u.SameOutside u := ⟨rfl, rfl, rfl, rfl, rfl⟩

theorem Snd.SameOutside.trans {u v w : Snd} (h : u.SameOutside v) (k : v.SameOutside w) :
    u.SameOutside w :=
  ⟨k.mode.trans h.mode, k.fault.trans h.fault, k.ackExpected.trans h.ackExpected,
    k.msgNext.trans h.msgNext, k.tmrRun.trans h.tmrRun⟩

/-- The cursor after one fragment, and whether the head message leaves the queue (42_sender.md R176). -/
theorem Snd.fillOne_cases (c : Config) (u : Snd) (m : QEntry) :
    let off := u.curOff + BitVec.ofNat 32 (u.fragment c m).2
    (off = m.len ∧ (u.fillOne c m).q = u.q.tail ∧ (u.fillOne c m).curMsgSeq = u.curMsgSeq + 1 ∧
      (u.fillOne c m).curOff = 0) ∨
    (off ≠ m.len ∧ (u.fillOne c m).q = u.q ∧ (u.fillOne c m).curMsgSeq = u.curMsgSeq ∧
      (u.fillOne c m).curOff = off) := by
  intro off
  by_cases h : off = m.len
  · exact .inl ⟨h, by simp only [Snd.fillOne]; rw [if_pos h]; simp⟩
  · exact .inr ⟨h, by simp only [Snd.fillOne]; rw [if_neg h]; simp [off]⟩

/-- What one iteration does to the sequence cursors and the window (42_sender.md R176). -/
theorem Snd.fillOne_window (c : Config) (u : Snd) (m : QEntry) :
    (u.fillOne c m).nextSeq = u.nextSeq + 1 ∧ (u.fillOne c m).nbuffered = u.nbuffered + 1 ∧
    (u.fillOne c m).nextToTransmit = u.nextToTransmit ∧
    (u.fillOne c m).win =
      Store.write (blankFrame c) u.win (slotOf c u.nextSeq) (u.fragmentFrame c m) := by
  simp only [Snd.fillOne]
  split <;> simp

theorem Snd.fillOne_sameOutside (c : Config) (u : Snd) (m : QEntry) : u.SameOutside (u.fillOne c m) := by
  simp only [Snd.fillOne]
  split <;> exact ⟨rfl, rfl, rfl, rfl, rfl⟩

/-- The loop writes no register outside its own, and does not touch `next_to_transmit`. -/
theorem Snd.fillLoop_sameOutside (c : Config) (k : Nat) (u : Snd) :
    u.SameOutside (Snd.fillLoop c k u).1 ∧ (Snd.fillLoop c k u).1.nextToTransmit = u.nextToTransmit := by
  induction k generalizing u with
  | zero => exact ⟨.refl u, rfl⟩
  | succ k ih =>
    unfold Snd.fillLoop
    split
    · exact ⟨.refl u, rfl⟩
    · rename_i m rest hq
      split
      · split
        · exact ⟨.refl u, rfl⟩
        · have h := ih (u.fillOne c m)
          exact ⟨(fillOne_sameOutside c u m).trans h.1, h.2.trans (fillOne_window c u m).2.2.1⟩
      · exact ⟨.refl u, rfl⟩

/-- The only `raise` of the loop is `SeqExhausted`, with `next_seq = 0xFFFFFFFF` (42_sender.md R176). -/
theorem Snd.fillLoop_raise {c : Config} {k : Nat} {u : Snd} {r : Raise}
    (h : (Snd.fillLoop c k u).2 = some r) :
    r = ⟨.seqExhausted, noneYet⟩ ∧ (Snd.fillLoop c k u).1.nextSeq = noneYet := by
  induction k generalizing u with
  | zero => simp [Snd.fillLoop] at h
  | succ k ih =>
    unfold Snd.fillLoop at h ⊢
    split at h
    · simp at h
    · split at h
      · split at h
        · rename_i h1 h2
          rename_i hq
          simp only [h1, h2, if_true] at h ⊢
          simp_all
        · rename_i h1 h2
          simp only [h1, h2, if_true, if_false]
          exact ih h
      · simp at h

/-- TRANSMIT changes `next_to_transmit` alone and raises nothing (42_sender.md R177). -/
@[simp] theorem Snd.transmit_unit (c : Config) (u : Snd) :
    (u.transmit c).unit = { u with nextToTransmit := u.nextSeq } := rfl

@[simp] theorem Snd.transmit_raised (c : Config) (u : Snd) : (u.transmit c).raised = none := rfl

@[simp] theorem Snd.transmit_out (c : Config) (u : Snd) :
    (u.transmit c).out = (u.pendingFrames c).map .sendFrame := rfl

/-- Everything WINDOW_FILL can do (42_sender.md R176): the loop ran and TRANSMIT after it, or the loop raised
`SeqExhausted` and nothing was sent. -/
theorem Snd.windowFill_cases (c : Config) (u : Snd) :
    let v := (Snd.fillLoop c c.window u).1
    ((Snd.fillLoop c c.window u).2 = none ∧
      u.windowFill c = ⟨{ v with nextToTransmit := v.nextSeq }, (v.pendingFrames c).map .sendFrame, none⟩) ∨
    ((Snd.fillLoop c c.window u).2 = some ⟨.seqExhausted, noneYet⟩ ∧ v.nextSeq = noneYet ∧
      u.windowFill c = ⟨v, [], some ⟨.seqExhausted, noneYet⟩⟩) := by
  intro v
  unfold Snd.windowFill
  cases h : Snd.fillLoop c c.window u with
  | mk w r =>
    cases r with
    | none => exact .inl ⟨rfl, by simp [v, h, Snd.transmit]⟩
    | some r =>
      have hr := Snd.fillLoop_raise (c := c) (k := c.window) (u := u) (r := r) (by rw [h])
      rw [h] at hr
      obtain ⟨rfl, h2⟩ := hr
      exact .inr ⟨rfl, by simpa [v, h] using h2, by simp [v, h]⟩

/-- WINDOW_FILL writes no register outside its own. -/
theorem Snd.windowFill_sameOutside (c : Config) (u : Snd) : u.SameOutside (u.windowFill c).unit := by
  have h := (Snd.fillLoop_sameOutside c c.window u).1
  rcases Snd.windowFill_cases c u with ⟨_, e⟩ | ⟨_, _, e⟩
  · rw [e]; exact ⟨h.mode, h.fault, h.ackExpected, h.msgNext, h.tmrRun⟩
  · rw [e]; exact h

/-- WINDOW_FILL emits frames and nothing else (42_sender.md R177). -/
theorem Snd.windowFill_out (c : Config) (u : Snd) :
    ∃ fs : List Frame, (u.windowFill c).out = fs.map .sendFrame := by
  rcases Snd.windowFill_cases c u with ⟨_, e⟩ | ⟨_, _, e⟩
  · rw [e]; exact ⟨_, rfl⟩
  · rw [e]; exact ⟨[], rfl⟩

/-- Everything SND.MSG can do in mode READY (42_sender.md R172, 60_exceptions.md R267). -/
theorem Snd.onMessage_cases (c : Config) (u : Snd) (len : Word) (data : List Byte) :
    (c.msgMax < len.toNat ∧ u.onMessage c len data = ⟨u, [], some ⟨.msgTooLong, len⟩⟩) ∨
    (len.toNat ≤ c.msgMax ∧ u.qCount = c.queueCap ∧
      u.onMessage c len data = ⟨u, [], some ⟨.capacityExceeded, u.msgNext⟩⟩) ∨
    (len.toNat ≤ c.msgMax ∧ u.qCount ≠ c.queueCap ∧ u.tmrRun = true ∧
      u.onMessage c len data =
        ⟨{ u with q := u.q ++ [⟨u.msgNext, len, data⟩], msgNext := u.msgNext + 1 }, [], none⟩) ∨
    (len.toNat ≤ c.msgMax ∧ u.qCount ≠ c.queueCap ∧ u.tmrRun = false ∧
      u.onMessage c len data =
        let p := ({ u with
          q := u.q ++ [⟨u.msgNext, len, data⟩], msgNext := u.msgNext + 1, tmrRun := true } : Snd).windowFill c
        { p with out := .startTimer c.timeout :: p.out }) := by
  unfold Snd.onMessage Snd.enqueue
  by_cases h1 : c.msgMax < len.toNat
  · exact .inl ⟨h1, by simp [h1]⟩
  · by_cases h2 : u.qCount = c.queueCap
    · exact .inr (.inl ⟨by omega, h2, by simp [h1, h2]⟩)
    · cases h3 : u.tmrRun with
      | true => exact .inr (.inr (.inl ⟨by omega, h2, rfl, by simp [h1, h2]⟩))
      | false => exact .inr (.inr (.inr ⟨by omega, h2, rfl, by simp [h1, h2, Snd.timerOn]⟩))

/-- The two recoverable conditions of SND.ACKF and their order (60_exceptions.md R267). -/
theorem Snd.ackCondition_cases (c : Config) (u : Snd) (f : Frame) :
    (chkValidate c f = false ∧ u.ackCondition c f = some .corruption) ∨
    (chkValidate c f = true ∧ u.ackInRange (frmParse f).seq = false ∧
      u.ackCondition c f = some .staleAck) ∨
    (chkValidate c f = true ∧ u.ackInRange (frmParse f).seq = true ∧ u.ackCondition c f = none) := by
  unfold Snd.ackCondition
  cases chkValidate c f <;> cases u.ackInRange (frmParse f).seq <;> simp

/-- The sender an in-range acknowledgment leaves before WINDOW_FILL (42_sender.md R173). -/
theorem Snd.acceptAck_cases (c : Config) (u : Snd) (ack : Word) :
    let p := ({ u with
      tmrRun := true
      nbuffered := u.nbuffered - (ack.toNat - u.ackExpected.toNat + 1)
      ackExpected := ack + 1 } : Snd).windowFill c
    (∃ r, p.raised = some r ∧ u.acceptAck c ack = ⟨p.unit, .startTimer c.timeout :: p.out, some r⟩) ∨
    (p.raised = none ∧ p.unit.ackExpected = p.unit.nextSeq ∧
      u.acceptAck c ack =
        ⟨p.unit.timerOff, .startTimer c.timeout :: p.out ++ [.stopTimer], none⟩) ∨
    (p.raised = none ∧ p.unit.ackExpected ≠ p.unit.nextSeq ∧
      u.acceptAck c ack = ⟨p.unit, .startTimer c.timeout :: p.out, none⟩) := by
  intro p
  have hp : u.acceptAck c ack =
      match p.raised with
      | some r => ⟨p.unit, .startTimer c.timeout :: p.out, some r⟩
      | none =>
        if p.unit.ackExpected = p.unit.nextSeq then
          ⟨p.unit.timerOff, .startTimer c.timeout :: p.out ++ [.stopTimer], none⟩
        else ⟨p.unit, .startTimer c.timeout :: p.out, none⟩ := rfl
  rw [hp]
  cases h : p.raised with
  | some r => exact .inl ⟨r, rfl, rfl⟩
  | none =>
    by_cases h2 : p.unit.ackExpected = p.unit.nextSeq
    · exact .inr (.inl ⟨rfl, h2, by simp [h2]⟩)
    · exact .inr (.inr ⟨rfl, h2, by simp [h2]⟩)

/-- What SND.TIMEOUT leaves and emits (42_sender.md R174). -/
theorem Snd.onTimeout_eq (c : Config) (u : Snd) :
    u.onTimeout c =
      ⟨{ u with tmrRun := true, nextToTransmit := u.nextSeq },
        .startTimer c.timeout ::
          (({ u with nextToTransmit := u.ackExpected } : Snd).pendingFrames c).map .sendFrame,
        none⟩ := rfl

end Sys2Proof.Machine
end

