-- ==== Sys2Proof/Laws/Step.lean ====
section
/-! SUPPORT. Everything a step can do, said once. -/

namespace Sys2Proof.Machine

/-- What `fetch` can answer. -/
theorem fetch_cases (s : State) :
    (s.cfg.legal = false ∧ fetch s = .refuse .illegalBuild) ∨
    (s.cfg.legal = true ∧ s.inbox = [] ∧ fetch s = .idle) ∨
    (s.cfg.legal = true ∧ ∃ rest, s.inbox = .hardReset :: rest ∧ fetch s = .reset { s with inbox := rest }) ∨
    (s.cfg.legal = true ∧ ∃ m rest i, s.inbox = .command m :: rest ∧ decode s.cfg m = .ok i ∧
      fetch s = .run i { s with inbox := rest }) ∨
    (s.cfg.legal = true ∧ ∃ m rest e, s.inbox = .command m :: rest ∧ decode s.cfg m = .error e ∧
      fetch s = .refuse (.undecodable e)) := by
  unfold fetch
  cases hl : s.cfg.legal with
  | false => simp
  | true =>
    cases hi : s.inbox with
    | nil => simp
    | cons e rest =>
      cases e with
      | hardReset => simp
      | command m =>
        cases hd : decode s.cfg m with
        | ok i => simp [hd]
        | error e => simp [hd]

/-- A step that answers a next state was idle, the reset input, or the operation of the command at the front. -/
theorem step_next_cases {s t : State} (h : step s = .next t) :
    s.cfg.legal = true ∧
    ((s.inbox = [] ∧ t = s) ∨
     (∃ rest, s.inbox = .hardReset :: rest ∧ t = hardReset { s with inbox := rest }) ∨
     (∃ m rest i, s.inbox = .command m :: rest ∧ decode s.cfg m = .ok i ∧
       exec i { s with inbox := rest } = .next t)) := by
  unfold step at h
  rcases fetch_cases s with ⟨_, e⟩ | ⟨hl, hi, e⟩ | ⟨hl, rest, hi, e⟩ | ⟨hl, m, rest, i, hi, hd, e⟩ |
      ⟨_, m, rest, _, _, _, e⟩
  · simp [e] at h
  · simp only [e, Host.Outcome.next.injEq] at h
    exact ⟨hl, .inl ⟨hi, h.symm⟩⟩
  · simp only [e, Host.Outcome.next.injEq] at h
    exact ⟨hl, .inr (.inl ⟨rest, hi, h.symm⟩)⟩
  · simp only [e] at h
    exact ⟨hl, .inr (.inr ⟨m, rest, i, hi, hd, h⟩)⟩
  · simp [e] at h

end Sys2Proof.Machine
end

