-- ==== Sys2Proof/Tests/Slice0.lean ====
section
/-! SUPPORT. Tests: ill-formed operands, decoding of words written out from 30_encoding.md R105, single steps whose
results are copied from 95_test_vectors.md, and for every statement with hypotheses a state that meets them. -/

namespace Sys2Proof.Tests

open Sys2Proof Sys2Proof.Machine

set_option Elab.async false

/-! ## Helpers -/

/-- A build with `MAXP = 5` and `W = 2`, for the witnesses. -/
def small : Config where
  frameSize := 12
  window := 2
  queueCap := 2
  timeout := 7
  msgMax := 64
  ackOnBuffer := true
  pad := 0x00

/-- SND as INIT leaves it. -/
def sndFresh : Snd := { Snd.powerOn with mode := .ready }

/-- RCV as INIT leaves it. -/
def rcvFresh : Rcv := { Rcv.powerOn with mode := .ready }

/-- A block with both units given. -/
def block (c : Config) (u : Snd) (r : Rcv) : State := { State.reset with cfg := c, snd := u, rcv := r }

/-- Both units fresh, in the small build. -/
def fresh : State := block small sndFresh rcvFresh

/-- Both units fresh, in the build of 95_test_vectors.md. -/
def fresh16 : State := block Config.standard sndFresh rcvFresh

/-- The output list of an operation. -/
def outs (i : Instr) (s : State) : Option (List Action) := (issue i s).map (·.outbox)

/-- The answer of an operation. -/
def answerOf (i : Instr) (s : State) : Option Result := (issue i s).bind (·.result)

/-- Why an operation has no step. -/
def refusalOf (i : Instr) (s : State) : Option Refusal :=
  match exec i s with
  | .next _ => none
  | .fault r => nomatch r
  | .refused r => some r

/-- The `SND:` line of 95_test_vectors.md section 1. -/
def sndLine (i : Instr) (s : State) : Option (List Nat) :=
  (issue i s).map fun t =>
    [t.snd.ackExpected.toNat, t.snd.nextSeq.toNat, t.snd.nextToTransmit.toNat, t.snd.nbuffered,
      t.snd.qCount, t.snd.msgNext.toNat, t.snd.curMsgSeq.toNat, t.snd.curOff.toNat, t.snd.tmrRun.toNat]

/-- The `RCV:` line of 95_test_vectors.md section 1, `occ` as a number with slot 0 in bit 0. -/
def rcvLine (i : Instr) (s : State) : Option (List Nat) :=
  (issue i s).map fun t =>
    [t.rcv.expected.toNat, t.rcv.occBits t.cfg, t.rcv.asmActive.toNat, t.rcv.asmSize.toNat, t.rcv.asmOff.toNat]

theorem next_of_issue {i : Instr} {s t : State} (h : issue i s = some t) : exec i s = .next t := by
  unfold issue at h
  split at h
  · next k => rw [k, Option.some.inj h]
  · cases h
  · cases h

theorem exists_next {i : Instr} {s : State} (h : (issue i s).isSome = true) : ∃ t, exec i s = .next t := by
  obtain ⟨t, ht⟩ := Option.isSome_iff_exists.mp h
  exact ⟨t, next_of_issue ht⟩

/-! ## Operands outside their types -/

/-- 30_encoding.md R102: a frame is exactly FRAME_SIZE bytes. -/
theorem test_wf_frame_short :
    (Instr.chkSum (List.replicate 15 0)).wf Config.standard = false ∧
    (Instr.chkValidate (List.replicate 17 0)).wf Config.standard = false ∧
    (Instr.chkStamp []).wf Config.standard = false ∧
    (Instr.frmParse (List.replicate 15 0)).wf Config.standard = false ∧
    (Instr.sndAckf (List.replicate 17 0)).wf Config.standard = false ∧
    (Instr.rcvFrame (List.replicate 15 0)).wf Config.standard = false ∧
    (Instr.rcvFrame (List.replicate 16 0)).wf Config.standard = true := by decide

/-- What 41_framer.md R151 calls preconditions refuses no operand; the prefix of fixed fields is needed. -/
theorem test_wf_frmData :
    (Instr.frmData 0xFFFFFFFF#32 10 (List.replicate 10 0)).wf Config.standard = true ∧
    (Instr.frmData 0 2 [1]).wf Config.standard = true ∧
    decode Config.standard ⟨0b01000#5, [0, 0, 0, 0]⟩ = .error .operandShape := by decide

/-- 30_encoding.md R100: a message of `len` bytes. -/
theorem test_wf_sndMsg :
    (Instr.sndMsg 2 [1]).wf Config.standard = false ∧ (Instr.sndMsg 0 []).wf Config.standard = true := by decide

/-- 00_scope.md R8, R10, R11, R13: each constraint of the build, broken. -/
theorem test_illegal_builds :
    ({ Config.standard with frameSize := 13 } : Config).legal = false ∧
    ({ Config.standard with frameSize := 10 } : Config).legal = false ∧
    ({ Config.standard with frameSize := 264 } : Config).legal = false ∧
    ({ Config.standard with window := 0 } : Config).legal = false ∧
    ({ Config.standard with window := 2 ^ 31 + 1 } : Config).legal = false ∧
    ({ Config.standard with queueCap := 0 } : Config).legal = false ∧
    ({ Config.standard with msgMax := 2 ^ 32 } : Config).legal = false ∧
    Config.standard.legal = true := by decide

/-- An ill-formed operand is refused by name, by a CHK and by a unit's operation. -/
theorem test_operand_refused :
    refusalOf (.chkSum []) fresh = some .operandShape ∧ refusalOf (.sndMsg 2 [1]) fresh = some .operandShape := by
  decide

/-! ## Decoding: the codes of 30_encoding.md R105, written out in binary -/

theorem test_decode_chk :
    decode small ⟨0b00000#5, List.replicate 12 0x11⟩ = .ok (.chkSum (List.replicate 12 0x11)) ∧
    decode small ⟨0b00001#5, List.replicate 12 0x22⟩ = .ok (.chkValidate (List.replicate 12 0x22)) ∧
    decode small ⟨0b00010#5, List.replicate 12 0x33⟩ = .ok (.chkStamp (List.replicate 12 0x33)) := by decide

theorem test_decode_frm :
    decode small ⟨0b01000#5, [0x04, 0x03, 0x02, 0x01, 0x02, 0xAA, 0xBB]⟩ =
      .ok (.frmData 0x01020304#32 2 [0xAA, 0xBB]) ∧
    decode small ⟨0b01001#5, [0x78, 0x56, 0x34, 0x12]⟩ = .ok (.frmAck 0x12345678#32) ∧
    decode small ⟨0b01010#5, List.replicate 12 0x44⟩ = .ok (.frmParse (List.replicate 12 0x44)) := by decide

theorem test_decode_snd :
    decode small ⟨0b10000#5, []⟩ = .ok .sndInit ∧
    decode small ⟨0b10001#5, [0x01, 0x00, 0x00, 0x00, 0xAA]⟩ = .ok (.sndMsg 1#32 [0xAA]) ∧
    decode small ⟨0b10010#5, List.replicate 12 0x55⟩ = .ok (.sndAckf (List.replicate 12 0x55)) ∧
    decode small ⟨0b10011#5, []⟩ = .ok .sndTimeout ∧
    decode small ⟨0b10100#5, []⟩ = .ok .sndFinal := by decide

theorem test_decode_rcv :
    decode small ⟨0b11000#5, []⟩ = .ok .rcvInit ∧
    decode small ⟨0b11010#5, List.replicate 12 0x66⟩ = .ok (.rcvFrame (List.replicate 12 0x66)) ∧
    decode small ⟨0b11100#5, []⟩ = .ok .rcvFinal := by decide

/-- 30_encoding.md R106, 95_test_vectors.md X13: reserved codes, the two absent RCV operations among them. -/
theorem test_decode_reserved :
    decode small ⟨0b11001#5, []⟩ = .error .reservedCode ∧ decode small ⟨0b11011#5, []⟩ = .error .reservedCode ∧
    decode small ⟨0b00011#5, []⟩ = .error .reservedCode ∧ decode small ⟨0b11111#5, []⟩ = .error .reservedCode := by
  decide

/-- The table's words, as the host numbers them, and the step that runs one. -/
theorem test_table_words :
    decodeTableWord 8 0x10 = some .sndInit ∧ decodeTableWord 8 0x09 = some (.frmAck 0) ∧
    decodeTableWord 8 0x1A = some (.rcvFrame (List.replicate 16 0)) ∧ decodeTableWord 8 0x19 = none := by decide

theorem test_fetch_runs_the_word :
    fetch (State.reset.withFetchWord 8 0x18) = .run .rcvInit State.reset := by decide

/-! ## CHK (95_test_vectors.md section 3.1) -/

/-- K8: two folds; K6: none. -/
theorem test_chkSum :
    answerOf (.chkSum [0xFE, 0xFF, 0xFF, 0xFF, 0xFF, 0xFF, 0x01, 0, 0, 0, 0, 0, 0, 0, 0, 0]) fresh16 =
      some (.checksum 0xFFFE#16) ∧
    answerOf (.chkSum [0x65, 0x17, 0, 0, 0, 0, 0x09, 0x05, 0, 0, 0, 0x48, 0x45, 0x4C, 0x4C, 0x4F]) fresh16 =
      some (.checksum 0x1765#16) := by decide +kernel

/-- K4: stored `0xFFFF` is not accepted for computed `0x0000`; K3 is valid. -/
theorem test_chkValidate :
    answerOf (.chkValidate (List.replicate 16 0xFF)) fresh16 = some (.verdict false) ∧
    answerOf (.chkValidate ([0x00, 0x00] ++ List.replicate 14 0xFF)) fresh16 = some (.verdict true) := by
  decide +kernel

/-- E1. -/
theorem test_chkStamp :
    answerOf (.chkStamp [0, 0, 1, 0, 0, 0, 9, 0x10, 0x11, 0x12, 0x13, 0x14, 0x15, 0x16, 0x17, 0x18]) fresh16 =
      some (.frame [0xA5, 0x9B, 1, 0, 0, 0, 9, 0x10, 0x11, 0x12, 0x13, 0x14, 0x15, 0x16, 0x17, 0x18]) := by
  decide +kernel

/-! ## FRM (95_test_vectors.md section 3.2) -/

/-- F9, F8. -/
theorem test_frmData :
    answerOf (.frmData 0x01020304#32 5 [0x01, 0, 0, 0, 0xAA]) fresh16 =
      some (.frame [0xF4, 0x50, 0x04, 0x03, 0x02, 0x01, 0x05, 0x01, 0, 0, 0, 0xAA, 0, 0, 0, 0]) ∧
    answerOf (.frmData 0xFFFFFFFE#32 1 [0xAB]) fresh16 =
      some (.frame [0xFF, 0x54, 0xFE, 0xFF, 0xFF, 0xFF, 0x01, 0xAB, 0, 0, 0, 0, 0, 0, 0, 0]) := by decide +kernel

/-- X2's frame, `plen = MAXP + 1`, but for its payload area: FRM.DATA runs; V4's number is taken as it is. -/
theorem test_frmData_overlong :
    (issue (.frmData 0xFFFFFFFF#32 10 (List.replicate 10 0)) fresh16).isSome = true ∧
    answerOf (.frmData 0xFFFFFFFF#32 1 [0]) fresh16 =
      some (.frame [0xFE, 0xFF, 0xFF, 0xFF, 0xFF, 0xFF, 0x01, 0, 0, 0, 0, 0, 0, 0, 0, 0]) := by decide +kernel

/-- F4, F2. -/
theorem test_frmAck :
    answerOf (.frmAck 0x12345678#32) fresh16 =
      some (.frame [0x53, 0x97, 0x78, 0x56, 0x34, 0x12, 0, 0, 0, 0, 0, 0, 0, 0, 0, 0]) ∧
    answerOf (.frmAck 0xFFFFFFFF#32) fresh16 =
      some (.frame [0, 0, 0xFF, 0xFF, 0xFF, 0xFF, 0, 0, 0, 0, 0, 0, 0, 0, 0, 0]) := by decide +kernel

/-- F11, F13. -/
theorem test_frmParse :
    answerOf (.frmParse [0xF4, 0x50, 0x04, 0x03, 0x02, 0x01, 0x05, 0x01, 0, 0, 0, 0xAA, 0, 0, 0, 0]) fresh16 =
      some (.fields ⟨0x50F4#16, 0x01020304#32, 5, [0x01, 0, 0, 0, 0xAA, 0, 0, 0, 0]⟩) ∧
    answerOf (.frmParse (List.replicate 16 0xFF)) fresh16 =
      some (.fields ⟨0xFFFF#16, 0xFFFFFFFF#32, 0xFF, List.replicate 9 0xFF⟩) := by decide +kernel

/-! ## SND (95_test_vectors.md section 3.3) -/

def d3 : Frame := [0x87, 0x78, 0x03, 0, 0, 0, 0x09, 0x17, 0x18, 0x19, 0x1A, 0x1B, 0x1C, 0x1D, 0x1E, 0x1F]
def d4 : Frame := [0x62, 0x4B, 0x04, 0, 0, 0, 0x09, 0x20, 0x21, 0x22, 0x23, 0x24, 0x25, 0x26, 0x27, 0x28]

/-- The sender after S1, with the frames 3 and 4 in its window. -/
def sndS1 : Snd :=
  { sndFresh with
    nextSeq := 5, nextToTransmit := 5, nbuffered := 5, msgNext := 1, curMsgSeq := 1, tmrRun := true
    win := [(3, d3), (4, d4)] }

/-- S13, R171: a running timer is stopped. -/
theorem test_sndInit :
    outs .sndInit (block Config.standard sndS1 rcvFresh) = some [.stopTimer] ∧
    sndLine .sndInit (block Config.standard sndS1 rcvFresh) = some [0, 0, 0, 0, 0, 0, 0, 0, 0] := by decide +kernel

/-- S1: the 41-byte message leaves as D0 to D4. -/
theorem test_sndMsg_five_frames :
    outs (.sndMsg 41 ((List.range 41).map (BitVec.ofNat 8))) fresh16 =
      some [.startTimer 0,
        .sendFrame [0xF2, 0xD0, 0, 0, 0, 0, 9, 0x29, 0, 0, 0, 0, 1, 2, 3, 4],
        .sendFrame [0xD1, 0xD2, 1, 0, 0, 0, 9, 5, 6, 7, 8, 9, 0xA, 0xB, 0xC, 0xD],
        .sendFrame [0xAC, 0xA5, 2, 0, 0, 0, 9, 0xE, 0xF, 0x10, 0x11, 0x12, 0x13, 0x14, 0x15, 0x16],
        .sendFrame d3, .sendFrame d4] := by decide +kernel

/-- X9: the fault keeps the frame built and sends nothing. -/
theorem test_sndMsg_seqExhausted :
    let s := block Config.standard
      { sndFresh with ackExpected := 0xFFFFFFFE, nextSeq := 0xFFFFFFFE, nextToTransmit := 0xFFFFFFFE } rcvFresh
    let i := Instr.sndMsg 10 [0, 1, 2, 3, 4, 5, 6, 7, 8, 9]
    outs i s = some [.startTimer 0, .fault ⟨.seqExhausted, 0xFFFFFFFF⟩] ∧
    sndLine i s = some [0xFFFFFFFE, 0xFFFFFFFF, 0xFFFFFFFE, 1, 1, 1, 0, 5, 1] := by decide +kernel

/-- S8: any padding is accepted; S3's registers. -/
theorem test_sndAckf_cumulative :
    let i := Instr.sndAckf [0xFD, 0xA5, 0x02, 0, 0, 0, 0, 0, 0, 0, 0, 0, 0, 0, 0, 0x5A]
    outs i (block Config.standard sndS1 rcvFresh) = some [.startTimer 0] ∧
    sndLine i (block Config.standard sndS1 rcvFresh) = some [3, 5, 5, 2, 0, 1, 1, 0, 1] := by decide +kernel

/-- S14: the stop test runs after the fill. -/
theorem test_sndAckf_refills :
    let s := block Config.standard { sndS1 with q := [⟨1, 3, [0xAA, 0xBB, 0xCC]⟩], msgNext := 2 } rcvFresh
    let i := Instr.sndAckf [0xFB, 0xFF, 0x04, 0, 0, 0, 0, 0, 0, 0, 0, 0, 0, 0, 0, 0]
    outs i s = some [.startTimer 0,
      .sendFrame [0x37, 0x86, 0x05, 0, 0, 0, 0x07, 0x03, 0, 0, 0, 0xAA, 0xBB, 0xCC, 0, 0]] ∧
    sndLine i s = some [5, 6, 6, 1, 0, 2, 2, 0, 1] := by decide +kernel

/-- S10. -/
theorem test_sndTimeout_resends :
    let s := block Config.standard { sndS1 with ackExpected := 3, nbuffered := 2 } rcvFresh
    outs .sndTimeout s = some [.startTimer 0, .sendFrame d3, .sendFrame d4] ∧
    sndLine .sndTimeout s = some [3, 5, 5, 2, 0, 1, 1, 0, 1] := by decide +kernel

/-- S11. -/
theorem test_sndTimeout_not_enabled : refusalOf .sndTimeout fresh16 = some .timeoutNotEnabled := by decide +kernel

/-- S12. -/
theorem test_sndFinal :
    outs .sndFinal (block Config.standard sndS1 rcvFresh) = some [.stopTimer] ∧
    (issue .sndFinal (block Config.standard sndS1 rcvFresh)).map (·.snd.mode) = some .off := by
  exact ⟨rfl, rfl⟩

/-! ## RCV (95_test_vectors.md sections 3.4, 3.5) -/

/-- R211: flags and accumulator cleared, from HALTED. -/
theorem test_rcvInit :
    rcvLine .rcvInit (block Config.standard sndFresh
      { rcvFresh with mode := .halted, fault := 0x11, expected := 4, occ := [(2, true)], asmActive := true,
                      asmSize := 6, asmOff := 5 }) = some [0, 0, 0, 0, 0] := by decide +kernel

/-- X6: the delivery made earlier in the drain stands, there is no acknowledgment. -/
theorem test_rcvFrame_malformed_in_drain :
    let s := block Config.standard sndFresh
      { rcvFresh with
        occ := [(1, true)]
        rwin := [(1, [0xFA, 0xFE, 0x01, 0, 0, 0, 0x02, 0x01, 0x02, 0, 0, 0, 0, 0, 0, 0])] }
    let i := Instr.rcvFrame [0xFA, 0xF5, 0, 0, 0, 0, 0x05, 0x01, 0, 0, 0, 0x09, 0, 0, 0, 0]
    outs i s = some [.deliverMessage 1 [0x09], .fault ⟨.rxMalformed, 1⟩] ∧
    rcvLine i s = some [1, 0, 0, 0, 0] := by decide +kernel

/-- V9: the window does not wrap, and the reserved number is never in it. -/
theorem test_rcvFrame_no_wrap :
    let s := block Config.standard sndFresh { rcvFresh with expected := 0xFFFFFFFC }
    let nudge : Action := .sendFrame [0x04, 0, 0xFB, 0xFF, 0xFF, 0xFF, 0, 0, 0, 0, 0, 0, 0, 0, 0, 0]
    outs (.rcvFrame (frmData Config.standard 0xFFFFFFFE 1 [0])) s = some [nudge] ∧
    rcvLine (.rcvFrame (frmData Config.standard 0xFFFFFFFE 1 [0])) s = some [0xFFFFFFFC, 16, 0, 0, 0] ∧
    rcvLine (.rcvFrame (frmData Config.standard 0xFFFFFFFF 1 [0])) s = some [0xFFFFFFFC, 0, 0, 0, 0] ∧
    rcvLine (.rcvFrame (frmData Config.standard 0 1 [0])) s = some [0xFFFFFFFC, 0, 0, 0, 0] := by decide +kernel

/-- V11: a partial message is not delivered. -/
theorem test_rcvFinal :
    let s := block Config.standard sndFresh { rcvFresh with expected := 1, asmActive := true, asmSize := 41, asmOff := 5 }
    outs .rcvFinal s = some [] ∧ (issue .rcvFinal s).map (fun t => (t.rcv.mode, t.rcv.asmActive)) = some (.off, false) :=
  ⟨rfl, rfl⟩

/-! ## States that meet the hypotheses of the statements -/

/-- The only frame of a 1-byte message, numbered `n`. -/
def whole (n : Word) : Frame := frmData small n 5 [1, 0, 0, 0, 0xAA]

/-- The first of the two frames of a 3-byte message, numbered `n`. -/
def first (n : Word) : Frame := frmData small n 5 [3, 0, 0, 0, 0xA1]

/-- The second of them, numbered `n`. -/
def second (n : Word) : Frame := frmData small n 2 [0xA2, 0xA3]

/-- A frame CONSUME cannot take: `plen = 3` in a first fragment. -/
def broken (n : Word) : Frame := frmData small n 3 [1, 2, 3]

/-- A fresh sender after a 1-byte message. -/
def sndOne : Snd :=
  { sndFresh with
    nextSeq := 1, nextToTransmit := 1, nbuffered := 1, msgNext := 1, curMsgSeq := 1, tmrRun := true
    win := [(0, whole 0)] }

/-- A fresh receiver after `first 0`. -/
def rcvMid : Rcv :=
  { rcvFresh with
    expected := 1, asmActive := true, asmSize := 3, asmOff := 1
    rwin := [(0, first 0)], asmBuf := [(0, 0xA1)] }

/-- A fresh receiver that holds frame 1 and waits for frame 0. -/
def rcvGap : Rcv := { rcvFresh with occ := [(1, true)], rwin := [(1, whole 1)] }

/-- A receiver that holds a malformed frame 1 and waits for frame 0. -/
def rcvTrap : Rcv := { rcvFresh with occ := [(1, true)], rwin := [(1, broken 1)] }

/-- A sender with one number left. -/
def sndLast : Snd := { sndFresh with ackExpected := 0xFFFFFFFE, nextSeq := 0xFFFFFFFE, nextToTransmit := 0xFFFFFFFE }

/-- A sender with one number left, one frame outstanding and a message of two fragments waiting. -/
def sndLastOut : Snd :=
  { sndFresh with
    ackExpected := 0xFFFFFFFD, nextSeq := 0xFFFFFFFE, nextToTransmit := 0xFFFFFFFE, nbuffered := 1
    msgNext := 2, curMsgSeq := 1, tmrRun := true
    q := [⟨1, 3, [1, 2, 3]⟩], win := [(1, whole 0xFFFFFFFD)] }

/-- One frame outstanding. -/
def sent : State := block small sndOne rcvFresh

theorem sndOne_is_reached : (issue (.sndMsg 1 [0xAA]) fresh).map (·.snd) = some sndOne := by decide +kernel
theorem rcvMid_is_reached : (issue (.rcvFrame (first 0)) fresh).map (·.rcv) = some rcvMid := by decide +kernel
theorem rcvGap_is_reached : (issue (.rcvFrame (whole 1)) fresh).map (·.rcv) = some rcvGap := by decide +kernel
theorem fresh_is_reached :
    ∃ t, exec .sndInit (block small Snd.powerOn Rcv.powerOn) = .next t ∧ exec .rcvInit t = .next fresh :=
  ⟨_, rfl, rfl⟩

theorem block_inv {u : Snd} {r : Rcv} (um : u.mode = .ready) (uf : u.fault = 0) (rm : r.mode = .ready)
    (rf : r.fault = 0) (us : u.StoreInv small) (rs : r.StoreInv small) (ui : u.Inv small) (ri : r.Inv small) :
    (block small u r).Inv where
  legal := (by decide : small.legal = true)
  sndStores := us
  rcvStores := rs
  sndFault := ⟨fun _ => uf, fun h => by simp [block, um] at h⟩
  rcvFault := ⟨fun _ => rf, fun h => by simp [block, rm] at h⟩
  snd := fun _ => ui
  rcv := fun _ => ri

theorem sndFresh_stores : sndFresh.StoreInv small := ⟨by decide, by decide⟩
theorem sndOne_stores : sndOne.StoreInv small := ⟨by decide +kernel, by decide +kernel⟩
theorem rcvFresh_stores : rcvFresh.StoreInv small :=
  ⟨by decide, by decide, by decide, by decide, by decide, by decide⟩
theorem rcvMid_stores : rcvMid.StoreInv small :=
  ⟨by decide, by decide, by decide +kernel, by decide +kernel, by decide, by decide⟩
theorem rcvGap_stores : rcvGap.StoreInv small :=
  ⟨by decide, by decide, by decide +kernel, by decide +kernel, by decide, by decide⟩

theorem sndFresh_inv : sndFresh.Inv small where
  counted := rfl
  bounded := by decide
  transmitted := rfl
  ordered := by decide
  queueCounted := rfl
  queueBounded := by decide
  numbered := fun k m h => by simp [sndFresh, Snd.powerOn] at h
  entries := fun m h => by simp [sndFresh, Snd.powerOn] at h
  cursor := fun m h => by simp [sndFresh, Snd.powerOn] at h
  cursorIdle := fun _ => rfl
  timer := by decide
  stored := fun s _ h => by simp [sndFresh, Snd.powerOn] at h

theorem sndOne_inv : sndOne.Inv small where
  counted := rfl
  bounded := by decide
  transmitted := rfl
  ordered := by decide
  queueCounted := rfl
  queueBounded := by decide
  numbered := fun k m h => by simp [sndOne, sndFresh, Snd.powerOn] at h
  entries := fun m h => by simp [sndOne, sndFresh, Snd.powerOn] at h
  cursor := fun m h => by simp [sndOne, sndFresh, Snd.powerOn] at h
  cursorIdle := fun _ => rfl
  timer := by decide
  stored := fun s _ h => by
    have h0 : s = 0 := BitVec.eq_of_toNat_eq (by simpa [sndOne] using h)
    subst h0
    exact ⟨⟨5, [1, 0, 0, 0, 0xAA], by decide, by decide, by decide +kernel⟩, by decide +kernel, by decide +kernel⟩

theorem sndLast_stores : sndLast.StoreInv small := ⟨by decide, by decide⟩
theorem sndLastOut_stores : sndLastOut.StoreInv small := ⟨by decide +kernel, by decide +kernel⟩
theorem rcvTrap_stores : rcvTrap.StoreInv small :=
  ⟨by decide, by decide, by decide +kernel, by decide +kernel, by decide, by decide⟩

theorem sndLast_inv : sndLast.Inv small where
  counted := rfl
  bounded := by decide
  transmitted := rfl
  ordered := by decide
  queueCounted := rfl
  queueBounded := by decide
  numbered := fun k m h => by simp [sndLast, sndFresh, Snd.powerOn] at h
  entries := fun m h => by simp [sndLast, sndFresh, Snd.powerOn] at h
  cursor := fun m h => by simp [sndLast, sndFresh, Snd.powerOn] at h
  cursorIdle := fun _ => rfl
  timer := by decide
  stored := fun s h k => by
    simp only [sndLast] at h k
    omega

theorem sndLastOut_inv : sndLastOut.Inv small where
  counted := by decide
  bounded := by decide
  transmitted := rfl
  ordered := by decide
  queueCounted := by decide
  queueBounded := by decide
  numbered := fun k m h => by
    cases k with
    | zero =>
      cases h
      decide
    | succ k => simp [sndLastOut] at h
  entries := by decide
  cursor := fun m h => by
    cases h
    exact .inl rfl
  cursorIdle := fun _ => rfl
  timer := by decide
  stored := fun s h k => by
    have h0 : s = 0xFFFFFFFD := by
      simp only [sndLastOut] at h k
      bv_omega
    subst h0
    exact ⟨⟨5, [1, 0, 0, 0, 0xAA], by decide, by decide, by decide +kernel⟩, by decide +kernel, by decide +kernel⟩

theorem rcvTrap_inv : rcvTrap.Inv small where
  gap := by decide
  buffered := fun i h => by
    have h1 : i = 1 := by simpa [rcvTrap, Store.read, eq_comm] using h
    subst h1
    decide +kernel
  active := by decide
  idle := by decide

theorem rcvFresh_inv : rcvFresh.Inv small where
  gap := by decide
  buffered := fun i h => by simp [rcvFresh, Rcv.powerOn, Store.read] at h
  active := by decide
  idle := by decide

theorem rcvMid_inv : rcvMid.Inv small where
  gap := by decide
  buffered := fun i h => by simp [rcvMid, rcvFresh, Rcv.powerOn, Store.read] at h
  active := by decide
  idle := by decide

theorem rcvGap_inv : rcvGap.Inv small where
  gap := by decide
  buffered := fun i h => by
    have h1 : i = 1 := by simpa [rcvGap, Store.read, eq_comm] using h
    subst h1
    decide +kernel
  active := by decide
  idle := by decide

theorem fresh_inv : fresh.Inv := block_inv rfl rfl rfl rfl sndFresh_stores rcvFresh_stores sndFresh_inv rcvFresh_inv
theorem sent_inv : sent.Inv := block_inv rfl rfl rfl rfl sndOne_stores rcvFresh_stores sndOne_inv rcvFresh_inv
theorem mid_inv : (block small sndFresh rcvMid).Inv :=
  block_inv rfl rfl rfl rfl sndFresh_stores rcvMid_stores sndFresh_inv rcvMid_inv
theorem gap_inv : (block small sndFresh rcvGap).Inv :=
  block_inv rfl rfl rfl rfl sndFresh_stores rcvGap_stores sndFresh_inv rcvGap_inv

/-! ### Commands and steps -/

theorem witness_DecodeOfEncodeIsTheInstruction : (Instr.sndMsg 1 [0xAA]).wf small = true := by decide
theorem witness_DecodableCommandIsItsEncoding : decode small ⟨0x09#5, [1, 0, 0, 0]⟩ = .ok (.frmAck 1) := by decide
theorem witness_ReservedCodesHaveNoStep :
    (let s := { fresh with inbox := [.command ⟨0x19#5, []⟩] }
     s.cfg.legal = true ∧ s.inbox = [.command ⟨0x19#5, []⟩]) ∧ (0x19 : BitVec 5).toNat = 0x19 := by decide
theorem witness_StepRunsTheFrontCommand :
    fresh.cfg.legal = true ∧ fresh.inbox = [] ∧
    (let s := { fresh with inbox := [.command ⟨0x13#5, []⟩] }
     s.cfg.legal = true ∧ decode s.cfg ⟨0x13#5, []⟩ = .ok .sndTimeout ∧ encode .sndTimeout = ⟨0x13#5, []⟩ ∧
       Instr.sndTimeout.wf s.cfg = true) := by decide
theorem witness_HardResetTurnsBothUnitsOff :
    (let s := { sent with inbox := [.hardReset] }
     s.cfg.legal = true ∧ s.inbox = [.hardReset]) := by decide

/-! ### CHK and FRM -/

theorem witness_ChkSumAnswersClosedForm :
    (frmAck small 1).length = fresh.cfg.frameSize ∧
    (regionWords small (frmAck small 0x00020001)).Perm (regionWords small (frmAck small 0x00010002)) := by
  decide +kernel
theorem witness_FoldEndsWithinTwoRounds : small.legal = true := by decide
/-- One frame for each clause: no word set, a sum of `0xFFFF`, all bytes zero. -/
theorem witness_ChkValidateIsExactComparison :
    (frmAck small 0).length = fresh.cfg.frameSize ∧ regionSum small (frmAck small 0) = 0 ∧
    (frmAck small 0xFFFF).length = fresh.cfg.frameSize ∧ regionSum small (frmAck small 0xFFFF) = 0xFFFF ∧
    (List.replicate 12 (0 : Byte)).length = fresh.cfg.frameSize := by decide +kernel
theorem witness_zero_frame : ∀ k, byteAt (List.replicate 12 0) k = 0 := by
  intro k
  by_cases h : k < 12
  · exact (by decide : ∀ j < 12, byteAt (List.replicate 12 0) j = 0) k h
  · exact List.getD_eq_default _ _ (by simpa using h)
theorem witness_ChkStampWritesTheChecksumField :
    fresh.cfg.legal = true ∧ (List.replicate 12 (7 : Byte)).length = fresh.cfg.frameSize := by decide
theorem witness_StampedFrameValidates :
    fresh.cfg.legal = true ∧ (List.replicate 12 (0 : Byte)).length = fresh.cfg.frameSize := by decide
/-- A bit of the stored field and the last bit of the frame. -/
theorem witness_SingleBitChangeIsDetected :
    fresh.cfg.legal = true ∧ (whole 0).length = fresh.cfg.frameSize ∧ 0 < fresh.cfg.frameSize ∧
    11 < fresh.cfg.frameSize ∧
    exec (.chkValidate (whole 0)) fresh = .next { fresh with outbox := [], result := some (.verdict true) } :=
  ⟨by decide, by decide +kernel, by decide, by decide, next_of_issue (by decide +kernel)⟩
/-- Two words exchanged, and a change that is detected. -/
theorem witness_UndetectedChangesKeepTheSum :
    chkValidate small (frmAck small 0x00020001) = true ∧
    storedChecksum (frmAck small 0x00010002) = storedChecksum (frmAck small 0x00020001) ∧
    storedChecksum ((frmAck small 0x00020001).set 2 9) = storedChecksum (frmAck small 0x00020001) := by
  decide +kernel
/-- The largest length that fits and the smallest that does not. -/
theorem witness_FrmDataBuildsTheLayout :
    fresh.cfg.legal = true ∧ (5 : Byte).toNat ≤ fresh.cfg.maxPayload ∧
    ¬ (6 : Byte).toNat ≤ fresh.cfg.maxPayload := by
  decide
theorem witness_FrmAckBuildsTheLayout : fresh.cfg.legal = true := by decide
theorem witness_FrmParseReadsTheFields : (List.replicate 12 (0xFF : Byte)).length = fresh.cfg.frameSize := by decide
theorem witness_ParseOfBuiltFrame :
    fresh.cfg.legal = true ∧ (0 : Byte).toNat ≤ fresh.cfg.maxPayload ∧
    ([] : List Byte).length = (0 : Byte).toNat := by decide

/-! ### SND -/

/-- A length one above `MSG_MAX`; a full queue. -/
theorem witness_SndMsgFaultsArePrecise :
    fresh.snd.mode = .ready ∧ (List.replicate 65 (0 : Byte)).length = (65 : Word).toNat ∧
    fresh.cfg.msgMax < (65 : Word).toNat ∧
    (let s := block small { sndFresh with q := [⟨0, 0, []⟩, ⟨1, 0, []⟩] } rcvFresh
     s.snd.mode = .ready ∧ s.snd.q.length = s.cfg.queueCap ∧ ([] : List Byte).length = (0 : Word).toNat ∧
       (0 : Word).toNat ≤ s.cfg.msgMax) := by decide
theorem witness_MessageWaitsBehindRunningTimer :
    sent.snd.mode = .ready ∧ [(1 : Byte)].length = (1 : Word).toNat ∧ (1 : Word).toNat ≤ sent.cfg.msgMax ∧
    sent.snd.q.length ≠ sent.cfg.queueCap ∧ sent.snd.tmrRun = true := by decide
/-- A message of no bytes, and one that fills the window. -/
theorem witness_IdleSenderSegmentsTheMessage :
    fresh.Inv ∧ fresh.snd.mode = .ready ∧ fresh.snd.tmrRun = false ∧ fresh.snd.q = [] ∧
    ([] : List Byte).length = (0 : Word).toNat ∧ fragmentCount small 0 ≤ small.window ∧
    (List.replicate 6 (0 : Byte)).length = (6 : Word).toNat ∧ (6 : Word).toNat ≤ fresh.cfg.msgMax ∧
    fragmentCount small 6 = small.window ∧
    fresh.snd.nextSeq.toNat + fragmentCount small 6 ≤ 0xFFFFFFFF :=
  ⟨fresh_inv, by decide⟩
/-- A message larger than the window. -/
theorem witness_IdleSenderFillsTheWindow :
    fresh.Inv ∧ fresh.snd.mode = .ready ∧ fresh.snd.tmrRun = false ∧
    (List.replicate 40 (0 : Byte)).length = (40 : Word).toNat ∧ (40 : Word).toNat ≤ fresh.cfg.msgMax ∧
    fresh.snd.q.length ≠ fresh.cfg.queueCap ∧ fresh.snd.nextSeq.toNat + fresh.cfg.window ≤ 0xFFFFFFFF :=
  ⟨fresh_inv, by decide⟩
/-- SND.MSG with the reserved number next; two fragments and one number, by SND.MSG; the same by SND.ACKF. -/
theorem witness_SenderHaltsBeforeReservedNumber :
    (let s := block small
       { sndFresh with ackExpected := 0xFFFFFFFF, nextSeq := 0xFFFFFFFF, nextToTransmit := 0xFFFFFFFF } rcvFresh
     s.snd.mode = .ready ∧ s.snd.tmrRun = false ∧ [(1 : Byte)].length = (1 : Word).toNat ∧
       (1 : Word).toNat ≤ s.cfg.msgMax ∧ s.snd.q.length ≠ s.cfg.queueCap ∧ s.snd.nextSeq = 0xFFFFFFFF#32 ∧
       s.snd.nbuffered < s.cfg.window) ∧
    ((block small sndLast rcvFresh).Inv ∧ sndLast.mode = .ready ∧ sndLast.tmrRun = false ∧
      [1, 2, (3 : Byte)].length = (3 : Word).toNat ∧ (3 : Word).toNat ≤ small.msgMax ∧
      sndLast.q.length ≠ small.queueCap ∧
      (let u : Snd := { sndLast with
         q := sndLast.q ++ [⟨sndLast.msgNext, 3, [1, 2, 3]⟩], msgNext := sndLast.msgNext + 1, tmrRun := true }
       u.numbersLeft = 1 ∧ u.unsentFragments small = 2 ∧ u.nbuffered + u.numbersLeft < small.window)) ∧
    ((block small sndLastOut rcvFresh).Inv ∧ sndLastOut.mode = .ready ∧
      (frmAck small 0xFFFFFFFD).length = small.frameSize ∧ chkValidate small (frmAck small 0xFFFFFFFD) = true ∧
      sndLastOut.ackExpected.toNat ≤ (le32 (frmAck small 0xFFFFFFFD) 2).toNat ∧
      (le32 (frmAck small 0xFFFFFFFD) 2).toNat < sndLastOut.nextSeq.toNat ∧
      (let u : Snd := { sndLastOut with ackExpected := 0xFFFFFFFE, nbuffered := 0, tmrRun := true }
       u.numbersLeft = 1 ∧ u.unsentFragments small = 2 ∧ u.nbuffered + u.numbersLeft < small.window)) :=
  ⟨by decide,
    ⟨block_inv rfl rfl rfl rfl sndLast_stores rcvFresh_stores sndLast_inv rcvFresh_inv, by decide +kernel⟩,
    ⟨block_inv rfl rfl rfl rfl sndLastOut_stores rcvFresh_stores sndLastOut_inv rcvFresh_inv, by decide +kernel⟩⟩
/-- All that is outstanding acknowledged, and, with two frames outstanding, the first of them. -/
theorem witness_AckReleasesItsFrames :
    (sent.snd.mode = .ready ∧ (frmAck small 0).length = sent.cfg.frameSize ∧
      chkValidate sent.cfg (frmAck small 0) = true ∧ sent.snd.q = [] ∧ sent.snd.nextToTransmit = sent.snd.nextSeq ∧
      sent.snd.ackExpected.toNat ≤ (le32 (frmAck small 0) 2).toNat ∧
      (le32 (frmAck small 0) 2).toNat < sent.snd.nextSeq.toNat) ∧
    (let s := block small { sndOne with nextSeq := 2, nextToTransmit := 2, nbuffered := 2 } rcvFresh
     s.snd.q = [] ∧ s.snd.nextToTransmit = s.snd.nextSeq ∧
       s.snd.ackExpected.toNat ≤ (le32 (frmAck small 0) 2).toNat ∧
       (le32 (frmAck small 0) 2).toNat < s.snd.nextSeq.toNat) := by decide +kernel
theorem witness_AckSlidesAndRefillsTheWindow :
    sent.Inv ∧ sent.snd.mode = .ready ∧ (frmAck small 0).length = sent.cfg.frameSize ∧
    chkValidate sent.cfg (frmAck small 0) = true ∧
    sent.snd.ackExpected.toNat ≤ (le32 (frmAck small 0) 2).toNat ∧
    (le32 (frmAck small 0) 2).toNat < sent.snd.nextSeq.toNat ∧
    sent.snd.nextSeq.toNat + sent.cfg.window ≤ 0xFFFFFFFF :=
  ⟨sent_inv, by decide +kernel⟩
theorem witness_TimeoutResendsTheWindow :
    sent.Inv ∧ sent.snd.mode = .ready ∧ sent.snd.tmrRun = true ∧ fresh.snd.mode = .ready ∧
    fresh.snd.tmrRun = false ∧ (block small { sndOne with mode := .halted, fault := 2 } rcvFresh).snd.mode = .halted ∧
    State.reset.snd.mode = .off :=
  ⟨sent_inv, by decide⟩
theorem witness_SndFinalTurnsTheSenderOff : sent.snd.mode ≠ .off ∧ State.reset.snd.mode = .off := by decide
/-- One of each SND operation with a step. -/
theorem witness_SenderOperationsFrame :
    (ownerOf .sndInit = some .snd ∧ ∃ t, exec .sndInit fresh = .next t) ∧
    (ownerOf (.sndMsg 1 [0xAA]) = some .snd ∧ ∃ t, exec (.sndMsg 1 [0xAA]) fresh = .next t) ∧
    (ownerOf (.sndAckf (frmAck small 0)) = some .snd ∧ ∃ t, exec (.sndAckf (frmAck small 0)) sent = .next t) ∧
    (ownerOf .sndTimeout = some .snd ∧ ∃ t, exec .sndTimeout sent = .next t) ∧
    (ownerOf .sndFinal = some .snd ∧ ∃ t, exec .sndFinal sent = .next t) :=
  ⟨⟨rfl, _, rfl⟩, ⟨rfl, exists_next (by decide +kernel)⟩, ⟨rfl, exists_next (by decide +kernel)⟩,
    ⟨rfl, exists_next (by decide +kernel)⟩, ⟨rfl, exists_next rfl⟩⟩
theorem witness_SenderStaysInsideItsWindow :
    sent.Inv ∧ sent.snd.mode = .ready ∧ ownerOf .sndTimeout = some .snd ∧ Instr.sndTimeout ≠ .sndInit ∧
    Instr.sndTimeout ≠ .sndFinal ∧ ∃ t, exec .sndTimeout sent = .next t :=
  ⟨sent_inv, rfl, rfl, by decide, by decide, exists_next (by decide +kernel)⟩
theorem witness_SenderEmitsOnlyItsOwnActions :
    fresh.Inv ∧ fresh.snd.mode = .ready ∧ ownerOf (.sndMsg 1 [0xAA]) = some .snd ∧
    ∃ t, exec (.sndMsg 1 [0xAA]) fresh = .next t ∧ Action.sendFrame (whole 0) ∈ t.outbox := by
  refine ⟨fresh_inv, rfl, rfl, _, next_of_issue (t := { sent with outbox := [.startTimer 7, .sendFrame (whole 0)] }) ?_,
    by simp⟩
  decide +kernel

/-! ### Recoverable conditions and RCV -/

theorem witness_CorruptedFramesAreDropped :
    (List.replicate 12 (0 : Byte)).length = fresh.cfg.frameSize ∧
    chkValidate fresh.cfg (List.replicate 12 0) = false ∧ fresh.snd.mode = .ready ∧ fresh.rcv.mode = .ready := by
  decide +kernel
/-- One below the range, and its first number above. -/
theorem witness_StaleAcknowledgmentsAreIgnored :
    (let s := block small { sndFresh with ackExpected := 1, nextSeq := 2 } rcvFresh
     s.snd.mode = .ready ∧ (frmAck small 0).length = s.cfg.frameSize ∧ chkValidate s.cfg (frmAck small 0) = true ∧
       (le32 (frmAck small 0) 2).toNat < s.snd.ackExpected.toNat ∧
       (frmAck small 2).length = s.cfg.frameSize ∧ chkValidate s.cfg (frmAck small 2) = true ∧
       s.snd.nextSeq.toNat ≤ (le32 (frmAck small 2) 2).toNat) := by decide +kernel
/-- One below, the first above, and the reserved number inside the range. -/
theorem witness_OutOfWindowFramesAreNudged :
    (let s := block small sndFresh { rcvFresh with expected := 1 }
     s.rcv.mode = .ready ∧ (whole 0).length = s.cfg.frameSize ∧ chkValidate s.cfg (whole 0) = true ∧
       (le32 (whole 0) 2).toNat < s.rcv.expected.toNat ∧ chkValidate s.cfg (whole 3) = true ∧
       s.rcv.expected.toNat + s.cfg.window ≤ (le32 (whole 3) 2).toNat) ∧
    (let s := block small sndFresh { rcvFresh with expected := 0xFFFFFFFE }
     s.rcv.mode = .ready ∧ (whole 0xFFFFFFFF).length = s.cfg.frameSize ∧
       chkValidate s.cfg (whole 0xFFFFFFFF) = true ∧ le32 (whole 0xFFFFFFFF) 2 = 0xFFFFFFFF#32) := by decide +kernel
theorem witness_OutOfOrderFramesAreBuffered :
    fresh.rcv.mode = .ready ∧ (whole 1).length = fresh.cfg.frameSize ∧ chkValidate fresh.cfg (whole 1) = true ∧
    fresh.rcv.expected.toNat < (le32 (whole 1) 2).toNat ∧
    (le32 (whole 1) 2).toNat < fresh.rcv.expected.toNat + fresh.cfg.window ∧
    le32 (whole 1) 2 ≠ 0xFFFFFFFF#32 := by decide +kernel
/-- A fragment that leaves bytes to come, and one that is the whole message. -/
theorem witness_FirstFragmentOpensTheMessage :
    fresh.Inv ∧ fresh.rcv.mode = .ready ∧ fresh.rcv.expected ≠ 0xFFFFFFFF#32 ∧
    fresh.rcv.occAt fresh.cfg (fresh.rcv.expected + 1) = false ∧ fresh.rcv.asmActive = false ∧
    ((first 0).length = fresh.cfg.frameSize ∧ chkValidate fresh.cfg (first 0) = true ∧
      le32 (first 0) 2 = fresh.rcv.expected ∧ (byteAt (first 0) 6).toNat - 4 < (le32 (first 0) 7).toNat) ∧
    ((whole 0).length = fresh.cfg.frameSize ∧ chkValidate fresh.cfg (whole 0) = true ∧
      le32 (whole 0) 2 = fresh.rcv.expected ∧ (byteAt (whole 0) 6).toNat - 4 = (le32 (whole 0) 7).toNat) :=
  ⟨fresh_inv, by decide +kernel⟩
theorem witness_not_malformed :
    ¬ Malformed fresh.cfg fresh.rcv (first 0) ∧ ¬ Malformed fresh.cfg fresh.rcv (whole 0) ∧
    ¬ Malformed small rcvMid (second 1) ∧ ¬ Malformed small rcvMid (frmData small 1 1 [0xA2]) := by
  unfold Malformed
  decide +kernel
/-- A fragment that leaves bytes to come, and one that completes the message. -/
theorem witness_ContinuationExtendsTheMessage :
    (block small sndFresh rcvMid).Inv ∧ rcvMid.mode = .ready ∧ rcvMid.expected ≠ 0xFFFFFFFF#32 ∧
    rcvMid.occAt small (rcvMid.expected + 1) = false ∧ rcvMid.asmActive = true ∧
    ((frmData small 1 1 [0xA2]).length = small.frameSize ∧ chkValidate small (frmData small 1 1 [0xA2]) = true ∧
      le32 (frmData small 1 1 [0xA2]) 2 = rcvMid.expected ∧ rcvMid.asmOff.toNat + 1 < rcvMid.asmSize.toNat) ∧
    ((second 1).length = small.frameSize ∧ chkValidate small (second 1) = true ∧
      le32 (second 1) 2 = rcvMid.expected ∧ rcvMid.asmOff.toNat + 2 = rcvMid.asmSize.toNat) :=
  ⟨mid_inv, by decide +kernel⟩
theorem witness_MalformedFrameHaltsTheReceiver :
    fresh.Inv ∧ fresh.rcv.mode = .ready ∧ (broken 0).length = fresh.cfg.frameSize ∧
    chkValidate fresh.cfg (broken 0) = true ∧ le32 (broken 0) 2 = fresh.rcv.expected ∧
    fresh.rcv.expected ≠ 0xFFFFFFFF#32 ∧ Malformed fresh.cfg fresh.rcv (broken 0) := by
  refine ⟨fresh_inv, ?_⟩
  unfold Malformed
  decide +kernel

/-- What a fresh block is after RCV.FRAME of `whole 0`, with `broken 1` in the other slot but not flagged. -/
def untrapped : State :=
  { block small sndFresh
      { rcvFresh with expected := 1, rwin := [(0, whole 0), (1, broken 1)], asmBuf := [(0, 0xAA)] } with
    outbox := [.deliverMessage 1 [0xAA], .sendFrame (frmAck small 0)] }

/-- A malformed frame met in the drain, after a message was delivered. -/
theorem witness_MalformedFrameInTheDrain :
    (block small sndFresh rcvTrap).Inv ∧ rcvTrap.mode = .ready ∧ (whole 0).length = small.frameSize ∧
    chkValidate small (whole 0) = true ∧ le32 (whole 0) 2 = rcvTrap.expected ∧
    rcvTrap.expected.toNat < (1 : Word).toNat ∧ (1 : Word).toNat < rcvTrap.expected.toNat + small.window ∧
    rcvTrap.occAt small 1 = true ∧
    exec (.rcvFrame (whole 0)) (block small sndFresh (rcvTrap.setOcc small 1 false)) = .next untrapped ∧
    untrapped.rcv.mode = .ready ∧ untrapped.rcv.expected = 1 ∧
    Malformed small untrapped.rcv (rcvTrap.rwinAt small 1) ∧
    (issue (.rcvFrame (whole 0)) (block small sndFresh rcvTrap)).map (·.rcv.mode) = some .halted := by
  refine ⟨block_inv rfl rfl rfl rfl sndFresh_stores rcvTrap_stores sndFresh_inv rcvTrap_inv, rfl, ?_⟩
  refine ⟨by decide +kernel, by decide +kernel, by decide +kernel, by decide, by decide, by decide,
    next_of_issue (by decide +kernel), rfl, rfl, ?_, by decide +kernel⟩
  unfold Malformed
  decide +kernel

theorem witness_RcvFinalTurnsTheReceiverOff : fresh.rcv.mode ≠ .off ∧ State.reset.rcv.mode = .off := by decide
/-- One of each RCV operation with a step, RCV.FRAME on the expected frame, on another and on a corrupt one. -/
theorem witness_ReceiverOperationsFrame :
    (ownerOf .rcvInit = some .rcv ∧ ∃ t, exec .rcvInit fresh = .next t) ∧
    (ownerOf .rcvFinal = some .rcv ∧ ∃ t, exec .rcvFinal fresh = .next t) ∧
    (ownerOf (.rcvFrame (whole 0)) = some .rcv ∧ ∃ t, exec (.rcvFrame (whole 0)) fresh = .next t) ∧
    (∃ t, exec (.rcvFrame (whole 1)) fresh = .next t) ∧
    (∃ t, exec (.rcvFrame (List.replicate 12 0)) fresh = .next t) :=
  ⟨⟨rfl, _, rfl⟩, ⟨rfl, exists_next rfl⟩, ⟨rfl, exists_next (by decide +kernel)⟩,
    exists_next (by decide +kernel), exists_next (by decide +kernel)⟩

/-- What a fresh block is after RCV.FRAME of `whole 1`. -/
def gapState : State :=
  { block small sndFresh rcvGap with outbox := [.sendFrame (frmAck small 0xFFFFFFFF#32)] }

theorem buffered_step : exec (.rcvFrame (whole 1)) fresh = .next gapState := next_of_issue (by decide +kernel)

/-- What `gapState` is after RCV.FRAME of `whole 0`: two messages delivered, one acknowledgment. -/
def drained : State :=
  { block small sndFresh
      { rcvFresh with expected := 2, rwin := [(0, whole 0), (1, whole 1)], asmBuf := [(0, 0xAA)] } with
    outbox := [.deliverMessage 1 [0xAA], .deliverMessage 1 [0xAA], .sendFrame (frmAck small 1)] }

theorem drain_step : exec (.rcvFrame (whole 0)) (block small sndFresh rcvGap) = .next drained :=
  next_of_issue (by decide +kernel)

/-- A buffered frame, answered for `0xFFFFFFFF`, and a drained one. -/
theorem witness_AcknowledgmentsNameTheLastConsumed :
    fresh.cfg.legal = true ∧ exec (.rcvFrame (whole 1)) fresh = .next gapState ∧
    Action.sendFrame (frmAck small 0xFFFFFFFF#32) ∈ gapState.outbox ∧ gapState.rcv.expected = 0 ∧
    exec (.rcvFrame (whole 0)) (block small sndFresh rcvGap) = .next drained ∧
    Action.sendFrame (frmAck small 1) ∈ drained.outbox :=
  ⟨by decide, buffered_step, by simp [gapState], rfl, drain_step, by simp [drained]⟩
/-- A valid frame, a corrupt one, and one that halts the receiver. -/
theorem witness_OneAcknowledgmentPerValidFrame :
    fresh.rcv.mode = .ready ∧ fresh.cfg.ackOnBuffer = true ∧
    exec (.rcvFrame (whole 1)) fresh = .next gapState ∧ chkValidate fresh.cfg (whole 1) = true ∧
    gapState.rcv.mode = .ready ∧ chkValidate fresh.cfg (List.replicate 12 0) = false ∧
    (∃ t, exec (.rcvFrame (List.replicate 12 0)) fresh = .next t) ∧
    (issue (.rcvFrame (broken 0)) fresh).map (·.rcv.mode) = some .halted :=
  ⟨rfl, rfl, buffered_step, by decide +kernel, rfl, by decide +kernel, exists_next (by decide +kernel),
    by decide +kernel⟩
theorem witness_DrainAdvancesToTheFirstGap :
    (block small sndFresh rcvGap).Inv ∧ rcvGap.mode = .ready ∧
    exec (.rcvFrame (whole 0)) (block small sndFresh rcvGap) = .next drained ∧
    chkValidate small (whole 0) = true ∧ le32 (whole 0) 2 = rcvGap.expected ∧ rcvGap.expected ≠ 0xFFFFFFFF#32 ∧
    drained.rcv.mode = .ready ∧ rcvGap.expected.toNat < 1 ∧ 1 < drained.rcv.expected.toNat ∧
    Action.sendFrame (frmAck small 1) ∈ drained.outbox :=
  ⟨gap_inv, rfl, drain_step, by decide +kernel, by decide +kernel, by decide, rfl, by decide, by decide,
    by simp [drained]⟩
theorem witness_DuplicateFramesChangeNothing :
    fresh.Inv ∧ fresh.rcv.mode = .ready ∧ exec (.rcvFrame (whole 1)) fresh = .next gapState ∧
    gapState.rcv.mode = .ready ∧ chkValidate fresh.cfg (whole 1) = true ∧ fresh.cfg.ackOnBuffer = true :=
  ⟨fresh_inv, rfl, buffered_step, rfl, by decide +kernel, rfl⟩
theorem witness_ReceiverEmitsOnlyItsOwnActions :
    ownerOf (.rcvFrame (whole 0)) = some .rcv ∧
    exec (.rcvFrame (whole 0)) (block small sndFresh rcvGap) = .next drained ∧
    ownerOf .rcvInit = some .rcv ∧ ∃ t, exec .rcvInit fresh = .next t :=
  ⟨rfl, drain_step, rfl, _, rfl⟩

/-! ### Both units -/

theorem witness_UnitsShareNoState :
    (ownerOf .sndTimeout = some .snd ∧ ∃ t, exec .sndTimeout sent = .next t) ∧
    (ownerOf (.rcvFrame (whole 1)) = some .rcv ∧ exec (.rcvFrame (whole 1)) fresh = .next gapState) ∧
    (ownerOf (.frmAck 0) = none ∧ ∃ t, exec (.frmAck 0) fresh = .next t) :=
  ⟨⟨rfl, exists_next (by decide +kernel)⟩, ⟨rfl, buffered_step⟩, rfl, exists_next (by decide +kernel)⟩
theorem witness_UnitOperationsCommute :
    ownerOf .sndTimeout = some .snd ∧ ownerOf .rcvInit = some .rcv ∧
    (∃ t u, exec .sndTimeout sent = .next t ∧ exec .rcvInit t = .next u) ∧
    ∃ t u, exec .rcvInit sent = .next t ∧ exec .sndTimeout t = .next u := by
  refine ⟨rfl, rfl, ?_, ?_⟩
  · obtain ⟨t, ht⟩ := exists_next (i := .sndTimeout) (s := sent) (by decide +kernel)
    exact ⟨t, _, ht, rfl⟩
  · obtain ⟨u, hu⟩ := exists_next (i := .sndTimeout) (s := { sent with rcv := rcvFresh }) (by decide +kernel)
    exact ⟨_, u, rfl, hu⟩
theorem witness_UnitThatIsOffRefuses :
    Instr.sndTimeout.wf State.reset.cfg = true ∧ ownerOf .sndTimeout = some .snd ∧ State.reset.snd.mode = .off ∧
    Instr.rcvFinal.wf State.reset.cfg = true ∧ ownerOf .rcvFinal = some .rcv ∧ State.reset.rcv.mode = .off := by decide
theorem witness_HaltedUnitDiscardsEvents :
    (let s := block small { sndOne with mode := .halted, fault := 2 } { rcvFresh with mode := .halted, fault := 0x11 }
     Instr.sndTimeout.wf s.cfg = true ∧ (Instr.sndMsg 1 [0xAA]).wf s.cfg = true ∧ s.snd.mode = .halted ∧
       (Instr.rcvFrame (whole 0)).wf s.cfg = true ∧ s.rcv.mode = .halted) := by decide +kernel
/-- An operation that halts the receiver, and the lifecycle operations. -/
theorem witness_ModesMoveByTheTable :
    (∃ t, exec (.rcvFrame (broken 0)) fresh = .next t) ∧ (∃ t, exec .sndInit fresh = .next t) ∧
    (∃ t, exec .sndFinal fresh = .next t) ∧ (∃ t, exec .rcvInit fresh = .next t) ∧
    ∃ t, exec .rcvFinal fresh = .next t :=
  ⟨exists_next (by decide +kernel), ⟨_, rfl⟩, exists_next rfl, ⟨_, rfl⟩, exists_next rfl⟩

/-- What `fresh` is after RCV.FRAME of `broken 0`. -/
def rcvHalted : State :=
  { block small sndFresh { rcvFresh with mode := .halted, fault := 0x11, rwin := [(0, broken 0)] } with
    outbox := [.fault ⟨.rxMalformed, 0⟩] }

/-- What `fresh` is after SND.MSG of 65 bytes. -/
def sndHalted : State :=
  { block small { sndFresh with mode := .halted, fault := 0x03 } rcvFresh with
    outbox := [.fault ⟨.msgTooLong, 65⟩] }

/-- A fault of each unit. -/
theorem witness_FaultEntryReportsLast :
    exec (.rcvFrame (broken 0)) fresh = .next rcvHalted ∧ Action.fault ⟨.rxMalformed, 0⟩ ∈ rcvHalted.outbox ∧
    rcvHalted.rcv.mode = .halted ∧
    exec (.sndMsg 65 (List.replicate 65 0)) fresh = .next sndHalted ∧
    Action.fault ⟨.msgTooLong, 65⟩ ∈ sndHalted.outbox ∧ sndHalted.snd.mode = .halted :=
  ⟨next_of_issue (by decide +kernel), by simp [rcvHalted], rfl, next_of_issue (by decide +kernel),
    by simp [sndHalted], rfl⟩
theorem witness_OperationHasStepIffEnabled :
    Instr.sndTimeout.wf sent.cfg = true ∧ enabled sent .sndTimeout = true ∧ enabled fresh .sndTimeout = false ∧
    (Instr.chkSum []).wf fresh.cfg = false := by decide
theorem witness_StatusViewShowsTheRegisters : ∃ t u, exec .sndInit sent = .next t ∧ exec .rcvInit t = .next u :=
  ⟨_, _, rfl, rfl⟩
theorem witness_InvariantKeptByEveryStep :
    { fresh with inbox := [.command ⟨0x18#5, []⟩] }.Inv ∧
    ∃ t, step { fresh with inbox := [.command ⟨0x18#5, []⟩] } = .next t :=
  ⟨{ legal := fresh_inv.legal, sndStores := fresh_inv.sndStores, rcvStores := fresh_inv.rcvStores,
     sndFault := fresh_inv.sndFault, rcvFault := fresh_inv.rcvFault, snd := fresh_inv.snd, rcv := fresh_inv.rcv },
    _, rfl⟩

/-! ### Both ends of the channel -/

/-- Both units fresh, nothing in the channel. -/
def started : System := ⟨fresh, [], [], [], []⟩

theorem started_started : started.Started where
  legal := by decide
  sndStores := sndFresh_stores
  rcvStores := rcvFresh_stores
  initialised := ⟨block small Snd.powerOn Rcv.powerOn, fresh_is_reached⟩
  fwdEmpty := rfl
  bwdEmpty := rfl
  nothingEnqueued := rfl
  nothingDelivered := rfl

theorem witness_StartedSystemAgrees : started.Started := started_started
theorem started_agrees : started.Agree where
  block := fresh_inv
  fwdNumbered := fun f h => by simp [started] at h
  bwdConsumed := fun f h => by simp [started] at h
  heldNumbered := fun i h => by simp [started, fresh, block, rcvFresh, Rcv.powerOn, Store.read] at h
  ackConsumed := by decide
  consumedSent := by decide

theorem moves_message : (started.move (.message 1 [0xAA])).map (fun y => (y.fwd, y.enqueued)) =
    some ([whole 0], [(1, [0xAA])]) := by decide +kernel

theorem witness_WindowAgreementKeptByEveryMove :
    started.Agree ∧ (Move.message 1 [0xAA]).honest started ∧ (Move.message 1 [0xAA]).lifecycle = false ∧
    ∃ y', started.move (.message 1 [0xAA]) = some y' := by
  refine ⟨started_agrees, trivial, rfl, ?_⟩
  obtain ⟨y, hy, -⟩ := Option.map_eq_some_iff.mp moves_message
  exact ⟨y, hy⟩

/-- A message, its frame delivered: the message is delivered, nothing has gone wrong. -/
theorem witness_DeliveredIsPrefixOfEnqueued :
    started.Started ∧ System.honestMoves [.message 1 [0xAA], .deliverFwd 0 false (whole 0)] started ∧
    ∃ y', System.moves [.message 1 [0xAA], .deliverFwd 0 false (whole 0)] started = some y' ∧ Safe y'.block ∧
      y'.delivered = [(1, [0xAA])] := by
  refine ⟨started_started, ⟨trivial, rfl, fun y h => ⟨.inl ?_, rfl, fun _ _ => trivial⟩⟩, ?_⟩
  · have k := moves_message
    rw [h] at k
    have : y.fwd = [whole 0] := congrArg Prod.fst (Option.some.inj k)
    simp [this]
  · have k : (System.moves [.message 1 [0xAA], .deliverFwd 0 false (whole 0)] started).map
        (fun y => (y.block.snd.fault, y.block.rcv.fault, y.delivered)) = some (0, 0, [(1, [0xAA])]) := by
      decide +kernel
    obtain ⟨y, hy, e⟩ := Option.map_eq_some_iff.mp k
    simp only [Prod.mk.injEq] at e
    exact ⟨y, hy, ⟨e.1, e.2.1⟩, e.2.2⟩

/-- A message that takes the whole window. -/
theorem witness_CutMessageIsReassembled :
    fresh.Inv ∧ fresh.snd.mode = .ready ∧ fresh.snd.tmrRun = false ∧ fresh.snd.q = [] ∧ fresh.rcv.mode = .ready ∧
    fresh.rcv.asmActive = false ∧ fresh.rcv.occ = [] ∧ fresh.rcv.expected = fresh.snd.nextSeq ∧
    [1, 2, (3 : Byte)].length = (3 : Word).toNat ∧ (3 : Word).toNat ≤ fresh.cfg.msgMax ∧
    fragmentCount fresh.cfg (3 : Word).toNat ≤ fresh.cfg.window ∧
    fresh.snd.nextSeq.toNat + fragmentCount fresh.cfg (3 : Word).toNat ≤ 0xFFFFFFFF :=
  ⟨fresh_inv, by decide⟩

end Sys2Proof.Tests
end

section
/-! What each unit's operations read and write (10_state.md R20, R21): an operation commutes with any change of the
state it may not reach. -/

namespace Sys2Proof.Machine

/-- Changes the next state of an outcome; a refusal stays as it is. -/
def mapNext (g : State → State) :
    Host.Outcome State Fault Refusal → Host.Outcome State Fault Refusal
  | .next t => .next (g t)
  | .fault x => .fault x
  | .refused x => .refused x

/-- The state with other contents of SND. -/
def State.withSnd (u : Snd) (s : State) : State := { s with snd := u }

/-- The state with other contents of RCV. -/
def State.withRcv (r : Rcv) (s : State) : State := { s with rcv := r }

@[simp] theorem State.withRcv_snd (r : Rcv) (s : State) : (s.withRcv r).snd = s.snd := rfl

@[simp] theorem State.withRcv_cfg (r : Rcv) (s : State) : (s.withRcv r).cfg = s.cfg := rfl

/-- A change of the state that leaves the build alone passes through the operand guard. -/
theorem withOperands_mapNext {i : Instr} {s : State} {b : Host.Outcome State Fault Refusal} {g : State → State}
    (hg : (g s).cfg = s.cfg) : withOperands i (g s) (mapNext g b) = mapNext g (withOperands i s b) := by
  unfold withOperands
  rw [hg]
  split <;> rfl

/-- A change of the state that commutes with discarding an event passes through the mode guard. -/
theorem guardMode_mapNext {m : Mode} {s b : State} {g : State → State}
    (hg : (g s).settle [] = g (s.settle [])) : guardMode m (g s) (g b) = mapNext g (guardMode m s b) := by
  cases m
  · rfl
  · rfl
  · exact congrArg Host.Outcome.next hg

theorem State.endSnd_withRcv (s : State) (p : Progress Snd) (r : Rcv) :
    (s.withRcv r).endSnd p = (s.endSnd p).withRcv r := by
  unfold State.endSnd
  cases p.raised <;> rfl

theorem State.endRcv_withSnd (s : State) (p : Progress Rcv) (u : Snd) :
    (s.withSnd u).endRcv p = (s.endRcv p).withSnd u := by
  unfold State.endRcv
  cases p.raised <;> rfl

/-- What RCV holds decides nothing in the guards and the end of a SND operation. -/
theorem guardedSnd_withRcv (i : Instr) (s : State) (p : Progress Snd) (r : Rcv) :
    withOperands i (s.withRcv r) (guardMode s.snd.mode (s.withRcv r) ((s.withRcv r).endSnd p)) =
      mapNext (State.withRcv r) (withOperands i s (guardMode s.snd.mode s (s.endSnd p))) := by
  rw [State.endSnd_withRcv, guardMode_mapNext rfl, withOperands_mapNext rfl]

/-- SND neither reads nor writes RCV (10_state.md R21). -/
theorem exec_withRcv {i : Instr} (hi : ownerOf i = some .snd) (s : State) (r : Rcv) :
    exec i (s.withRcv r) = mapNext (State.withRcv r) (exec i s) := by
  cases i with
  | sndInit => rfl
  | sndMsg len data => exact guardedSnd_withRcv _ s (s.snd.onMessage s.cfg len data) r
  | sndAckf f => exact guardedSnd_withRcv _ s (s.snd.onAck s.cfg f) r
  | sndTimeout =>
    show execSndTimeout _ = mapNext _ (execSndTimeout s)
    cases hm : s.snd.mode with
    | off => simp [execSndTimeout, hm, mapNext]
    | halted => simp [execSndTimeout, hm, mapNext]
    | ready =>
      cases ht : s.snd.tmrRun with
      | false => simp [execSndTimeout, hm, ht, mapNext]
      | true => simp [execSndTimeout, hm, ht, mapNext, State.endSnd_withRcv]
  | sndFinal =>
    show execSndFinal _ = mapNext _ (execSndFinal s)
    simp only [execSndFinal, State.withRcv]
    cases s.snd.mode <;> rfl
  | chkSum | chkValidate | chkStamp | frmData | frmAck | frmParse | rcvInit | rcvFrame | rcvFinal => cases hi

/-- RCV neither reads nor writes SND (10_state.md R21). -/
theorem exec_withSnd {i : Instr} (hi : ownerOf i = some .rcv) (s : State) (u : Snd) :
    exec i (s.withSnd u) = mapNext (State.withSnd u) (exec i s) := by
  cases i with
  | rcvInit => rfl
  | rcvFrame f =>
    show execRcvFrame f _ = mapNext _ (execRcvFrame f s)
    have hp := s.endRcv_withSnd (s.rcv.onFrame s.cfg f) u
    unfold execRcvFrame
    rw [← withOperands_mapNext rfl, ← guardMode_mapNext rfl, ← hp]
    rfl
  | rcvFinal =>
    show execRcvFinal _ = mapNext _ (execRcvFinal s)
    simp only [execRcvFinal, State.withSnd]
    cases s.rcv.mode <;> rfl
  | chkSum | chkValidate | chkStamp | frmData | frmAck | frmParse | sndInit | sndMsg | sndAckf | sndTimeout
  | sndFinal => cases hi

/-- A CHK or FRM operation answers a value that the build and its operands decide, and does nothing else. -/
theorem exec_answers {i : Instr} (hi : ownerOf i = none) (c : Config) :
    ∃ v, ∀ s : State, s.cfg = c → exec i s = withOperands i s (.next (s.answer v)) := by
  cases i with
  | chkSum f => exact ⟨.checksum (chkSum c f), by rintro s rfl; rfl⟩
  | chkValidate f => exact ⟨.verdict (chkValidate c f), by rintro s rfl; rfl⟩
  | chkStamp f => exact ⟨.frame (chkStamp c f), by rintro s rfl; rfl⟩
  | frmData seq plen payload =>
    exact ⟨.frame (frmData c seq plen (copiedPayload c seq plen payload)), by rintro s rfl; rfl⟩
  | frmAck ack => exact ⟨.frame (frmAck c ack), by rintro s rfl; rfl⟩
  | frmParse f => exact ⟨.fields (frmParse f), fun s _ => rfl⟩
  | sndInit | sndMsg | sndAckf | sndTimeout | sndFinal | rcvInit | rcvFrame | rcvFinal => cases hi

/-- CHK and FRM neither read nor write a unit's state (10_state.md R20). -/
theorem exec_withUnits {i : Instr} (hi : ownerOf i = none) (s : State) (u : Snd) (r : Rcv) :
    exec i ((s.withSnd u).withRcv r) = mapNext (fun t => (t.withSnd u).withRcv r) (exec i s) := by
  obtain ⟨v, hv⟩ := exec_answers hi s.cfg
  rw [hv s rfl, hv ((s.withSnd u).withRcv r) rfl]
  exact withOperands_mapNext (b := .next (s.answer v)) (g := fun t => (t.withSnd u).withRcv r) rfl

/-- An operation that commutes with a change answers a changed next state from a changed state; from a state the
change leaves as it is, that next state is not changed either. -/
theorem exec_next_of_mapNext {i : Instr} {s t : State} {g : State → State}
    (hg : exec i (g s) = mapNext g (exec i s)) (h : exec i s = .next t) :
    exec i (g s) = .next (g t) ∧ (g s = s → g t = t) := by
  have hn : exec i (g s) = .next (g t) := by rw [hg, h]; rfl
  refine ⟨hn, fun hs => ?_⟩
  rw [hs, h] at hn
  exact (Host.Outcome.next.inj hn).symm

/-- A SND operation leaves RCV as it was. -/
theorem exec_snd_rcv {i : Instr} {s t : State} (hi : ownerOf i = some .snd) (h : exec i s = .next t) :
    t.rcv = s.rcv :=
  (congrArg State.rcv ((exec_next_of_mapNext (exec_withRcv hi s s.rcv) h).2 rfl)).symm

/-- A RCV operation leaves SND as it was. -/
theorem exec_rcv_snd {i : Instr} {s t : State} (hi : ownerOf i = some .rcv) (h : exec i s = .next t) :
    t.snd = s.snd :=
  (congrArg State.snd ((exec_next_of_mapNext (exec_withSnd hi s s.snd) h).2 rfl)).symm

/-- A CHK or FRM operation leaves both units as they were. -/
theorem exec_none_units {i : Instr} {s t : State} (hi : ownerOf i = none) (h : exec i s = .next t) :
    t.snd = s.snd ∧ t.rcv = s.rcv := by
  obtain ⟨v, hv⟩ := exec_answers hi s.cfg
  rw [hv s rfl] at h
  obtain ⟨-, h⟩ := withOperands_next h
  cases h
  exact ⟨rfl, rfl⟩

/-- Settles O47: each operation commutes with every change of the state it may not reach. -/
theorem unitsShareNoState : Obligations.UnitsShareNoState := by
  refine ⟨fun i s t r hi h => ?_, fun i s t u hi h => ?_, fun i s t u r hi h => ?_⟩
  · exact ⟨exec_snd_rcv hi h, (exec_next_of_mapNext (exec_withRcv hi s r) h).1⟩
  · exact ⟨exec_rcv_snd hi h, (exec_next_of_mapNext (exec_withSnd hi s u) h).1⟩
  · obtain ⟨hsnd, hrcv⟩ := exec_none_units hi h
    exact ⟨hsnd, hrcv, (exec_next_of_mapNext (g := fun t => (t.withSnd u).withRcv r) (exec_withUnits hi s u r) h).1⟩

end Sys2Proof.Machine
end

section
/-! What O55 needs of a legal build and of the frames FRM.DATA builds. -/

namespace Sys2Proof.Machine

/-- The constraints on a legal build (00_scope.md R8, R10, R11, R13), as inequalities. -/
theorem legal_bounds {c : Config} (hc : c.legal = true) :
    12 ≤ c.frameSize ∧ c.frameSize ≤ 262 ∧ 1 ≤ c.window ∧ c.queueCap < 2 ^ 32 ∧ c.msgMax ≤ 2 ^ 32 - 1 := by
  simp only [Config.legal, Bool.and_eq_true, decide_eq_true_eq] at hc
  omega

theorem slotOf_lt {c : Config} (hc : c.legal = true) (s : Word) : slotOf c s < c.window :=
  Nat.mod_lt _ (legal_bounds hc).2.2.1

/-- A stamped frame validates (40_checksum.md R137). -/
theorem chkValidate_chkStamp (c : Config) {f : Frame} (hf : 2 ≤ f.length) :
    chkValidate c (chkStamp c f) = true := by
  rw [chkValidate_iff, chkSum_eq_of_words c (chkWords_chkStamp c f), chkStamp, le16]
  exact (memRead_memWrite f 0 2 _ (by omega) (by simpa using (chkSum c f).isLt)).symm

theorem chkValidate_frmData (c : Config) (seq : Word) (plen : Byte) (payload : List Byte) :
    chkValidate c (frmData c seq plen payload) = true :=
  chkValidate_chkStamp c (by simp)

/-- FRM.PARSE reads back the sequence number FRM.DATA was given (41_framer.md R156). -/
theorem frmParse_frmData_seq (c : Config) (seq : Word) (plen : Byte) (payload : List Byte) :
    (frmParse (frmData c seq plen payload)).seq = seq := by
  rw [frmData, (frmParse_chkStamp c _).1]
  simp only [List.append_assoc]
  exact le32_put32 [0, 0] _ seq

/-- Two numbers less than `W` apart that share a slot are the same (20_memory.md R69). -/
theorem eq_of_mod_eq_of_lt {a b w : Nat} (hab : a ≤ b) (hw : b < a + w) (h : b % w = a % w) : b = a := by
  have hd : (b - a) % w = 0 := Nat.sub_mod_eq_zero_of_mod_eq h
  rw [Nat.mod_eq_of_lt (by omega)] at hd
  omega

end Sys2Proof.Machine
end

section
/-! RCV keeps its invariants (10_state.md R34): what CONSUME keeps of the accumulator, what DRAIN keeps of the
flags, and RCV.FRAME from the two. -/

namespace Sys2Proof.Machine

/-- R34 (c), of the three accumulator registers. -/
structure Rcv.AsmInv (c : Config) (active : Bool) (size off : Word) : Prop where
  busy : active = true → 0 < off.toNat ∧ off.toNat < size.toNat ∧ size.toNat ≤ c.msgMax
  idle : active = false → off = 0 ∧ size = 0

/-- R34 (b) inside an operation: a slot whose flag is set holds a valid frame of that slot, numbered from
`expected` on and below `expected + k`. -/
def Rcv.HeldBelow (c : Config) (k : Nat) (occ : Store Bool) (rwin : Store Frame) (expected : Word) : Prop :=
  ∀ i, Store.read false occ i = true →
    let f := Store.read (blankFrame c) rwin i
    let s := (frmParse f).seq
    chkValidate c f = true ∧ s.toNat % c.window = i ∧ expected.toNat ≤ s.toNat ∧
      s.toNat < expected.toNat + k ∧ s.toNat ≤ 0xFFFFFFFE

/-- R34 between operations is R34 inside one, with the flag of `expected` clear. -/
theorem Rcv.Inv.of_heldBelow {c : Config} {r : Rcv} (hgap : r.occAt c r.expected = false)
    (hheld : Rcv.HeldBelow c c.window r.occ r.rwin r.expected)
    (hasm : Rcv.AsmInv c r.asmActive r.asmSize r.asmOff) : r.Inv c where
  gap := hgap
  buffered := fun i hi => by
    obtain ⟨hv, hs, hge, hlt, hmax⟩ := hheld i hi
    refine ⟨hv, hs, Nat.lt_of_le_of_ne hge fun he => ?_, hlt, hmax⟩
    have hslot : slotOf c r.expected = i := by rw [slotOf, he, hs]
    rw [Rcv.occAt, hslot, hi] at hgap
    cases hgap
  active := hasm.busy
  idle := hasm.idle

theorem Rcv.Inv.heldBelow {c : Config} {r : Rcv} (h : r.Inv c) :
    Rcv.HeldBelow c c.window r.occ r.rwin r.expected := fun i hi => by
  obtain ⟨hv, hs, hgt, hlt, hmax⟩ := h.buffered i hi
  exact ⟨hv, hs, hgt.le, hlt, hmax⟩

theorem Rcv.Inv.asmInv {c : Config} {r : Rcv} (h : r.Inv c) : Rcv.AsmInv c r.asmActive r.asmSize r.asmOff :=
  ⟨h.active, h.idle⟩

/-- A larger bound says less. -/
theorem Rcv.HeldBelow.mono {c : Config} {j k : Nat} {occ : Store Bool} {rwin : Store Frame} {e : Word}
    (h : Rcv.HeldBelow c j occ rwin e) (hjk : j ≤ k) : Rcv.HeldBelow c k occ rwin e := fun i hi => by
  obtain ⟨hv, hs, hge, hlt, hmax⟩ := h i hi
  exact ⟨hv, hs, hge, by omega, hmax⟩

/-- The frame DRAIN takes is the one numbered `expected` (10_state.md R34). -/
theorem Rcv.HeldBelow.seq_expected {c : Config} {k : Nat} {r : Rcv}
    (h : Rcv.HeldBelow c k r.occ r.rwin r.expected) (hk : k ≤ c.window) (ho : r.occAt c r.expected = true) :
    (frmParse (r.rwinAt c r.expected)).seq.toNat = r.expected.toNat ∧ r.expected.toNat ≤ 0xFFFFFFFE := by
  obtain ⟨-, hs, hge, hlt, hmax⟩ := h _ ho
  have he := eq_of_mod_eq_of_lt hge (by omega) hs
  exact ⟨he, he ▸ hmax⟩

/-- Clearing the flag of `expected` and passing it leaves the numbers above, one fewer (43_receiver.md R214). -/
theorem Rcv.HeldBelow.advance {c : Config} {k : Nat} {r : Rcv} (hw : Store.wf false r.occ)
    (h : Rcv.HeldBelow c (k + 1) r.occ r.rwin r.expected) (hk : k + 1 ≤ c.window)
    (ho : r.occAt c r.expected = true) :
    Rcv.HeldBelow c k (r.setOcc c r.expected false).occ r.rwin (r.expected + 1) := by
  have hmax := (h.seq_expected hk ho).2
  have hsucc : (r.expected + 1).toNat = r.expected.toNat + 1 := by bv_omega
  intro i hi
  rw [Rcv.setOcc_occ] at hi
  have hne : i ≠ slotOf c r.expected := by
    rintro rfl
    rw [Store.read_write_same hw] at hi
    cases hi
  rw [Store.read_write_other hne] at hi
  obtain ⟨hv, hs, hge, hlt, hmax'⟩ := h i hi
  refine ⟨hv, hs, ?_, by omega, hmax'⟩
  rw [hsucc]
  refine Nat.lt_of_le_of_ne hge fun he => hne ?_
  rw [slotOf, he, hs]

/-- Storing a valid frame whose number is in the window keeps R34 (b) (43_receiver.md R212). -/
theorem Rcv.HeldBelow.store {c : Config} {k : Nat} {r : Rcv} {f : Frame} (hst : r.StoreInv c)
    (h : Rcv.HeldBelow c k r.occ r.rwin r.expected) (hv : chkValidate c f = true)
    (hge : r.expected.toNat ≤ (frmParse f).seq.toNat) (hlt : (frmParse f).seq.toNat < r.expected.toNat + k)
    (hmax : (frmParse f).seq.toNat ≤ 0xFFFFFFFE) :
    Rcv.HeldBelow c k (r.store c (frmParse f).seq f).occ (r.store c (frmParse f).seq f).rwin r.expected := by
  intro i hi
  simp only [Rcv.store_occ, Rcv.store_rwin] at hi ⊢
  by_cases hs : i = slotOf c (frmParse f).seq
  · subst hs
    rw [Store.read_write_same hst.rwinCanonical]
    exact ⟨hv, rfl, hge, hlt, hmax⟩
  · rw [Store.read_write_other hs] at hi ⊢
    exact h i hi

/-- The stores' form depends on the stores alone. -/
theorem Rcv.StoreInv.congr {c : Config} {r v : Rcv} (h : r.StoreInv c) (hocc : v.occ = r.occ)
    (hrwin : v.rwin = r.rwin) (hasm : v.asmBuf = r.asmBuf) : v.StoreInv c where
  occCanonical := hocc ▸ h.occCanonical
  occSlots := hocc ▸ h.occSlots
  rwinCanonical := hrwin ▸ h.rwinCanonical
  rwinSlots := hrwin ▸ h.rwinSlots
  asmCanonical := hasm ▸ h.asmCanonical
  asmInside := hasm ▸ h.asmInside

theorem Rcv.StoreInv.setOcc {c : Config} {r : Rcv} (hc : c.legal = true) (h : r.StoreInv c) (s : Word) (b : Bool) :
    (r.setOcc c s b).StoreInv c :=
  { h with
    occCanonical := Store.write_wf h.occCanonical _ _
    occSlots := fun p hp => by
      rcases Store.mem_write hp with rfl | hp
      · exact slotOf_lt hc s
      · exact h.occSlots p hp }

theorem Rcv.StoreInv.setRwin {c : Config} {r : Rcv} (hc : c.legal = true) (h : r.StoreInv c) (s : Word) {f : Frame}
    (hf : f.length = c.frameSize) : (r.setRwin c s f).StoreInv c :=
  { h with
    rwinCanonical := Store.write_wf h.rwinCanonical _ _
    rwinSlots := fun p hp => by
      rcases Store.mem_write hp with rfl | hp
      · exact ⟨slotOf_lt hc s, hf⟩
      · exact h.rwinSlots p hp }

/-- A copy that ends inside `asm_buf` keeps the stores' form. -/
theorem Rcv.StoreInv.asmWrite {c : Config} {r : Rcv} (h : r.StoreInv c) {off : Nat} {bytes : List Byte}
    (hin : off + bytes.length ≤ c.msgMax) : (r.asmWrite off bytes).StoreInv c :=
  { h with
    asmCanonical := Memory.writeBytes_wf h.asmCanonical _ _
    asmInside := fun p hp => by
      rcases Memory.mem_writeBytes hp with hp | hp
      · omega
      · exact h.asmInside p hp }

/-- What CONSUME keeps: the stores' form and R34 (c). -/
structure Rcv.AsmSound (c : Config) (r : Rcv) : Prop where
  stores : r.StoreInv c
  asm : Rcv.AsmInv c r.asmActive r.asmSize r.asmOff

/-- The end of CONSUME closes a complete message; one it leaves open holds some but not all of its bytes. -/
theorem Rcv.deliverIfComplete_asmSound {c : Config} {r : Rcv} (hst : r.StoreInv c)
    (hsome : r.asmOff = 0 → r.asmSize = 0) (hle : r.asmOff.toNat ≤ r.asmSize.toNat)
    (hmax : r.asmSize.toNat ≤ c.msgMax) (hact : r.asmActive = true) :
    Rcv.AsmSound c r.deliverIfComplete.unit := by
  rcases r.deliverIfComplete_cases with ⟨-, e⟩ | ⟨hne, e⟩ <;> rw [e]
  · exact ⟨hst.congr rfl rfl rfl, nofun, fun _ => ⟨rfl, rfl⟩⟩
  · refine ⟨hst, fun _ => ⟨?_, ?_, hmax⟩, fun hi => ?_⟩
    · exact Nat.pos_of_ne_zero fun h0 => hne (by
        have hz : r.asmOff = 0 := BitVec.eq_of_toNat_eq h0
        rw [hz, hsome hz])
    · exact Nat.lt_of_le_of_ne hle fun he => hne (BitVec.eq_of_toNat_eq he)
    · rw [hact] at hi
      cases hi

theorem length_bytesFrom_le (buf : List Byte) (off n : Nat) : (bytesFrom buf off n).length ≤ n := by
  simp [bytesFrom]

theorem Rcv.AsmSound.consumeFirst {c : Config} {r : Rcv} (h : r.AsmSound c) (p : Fields) :
    Rcv.AsmSound c (r.consumeFirst c p).unit := by
  rcases r.consumeFirst_cases c p with e | ⟨-, hmax, hfit, hempty, e⟩ <;> rw [e]
  · exact h
  · have hlt := p.plen.isLt
    have hn : (BitVec.ofNat 32 (p.plen.toNat - 4)).toNat = p.plen.toNat - 4 := by
      rw [BitVec.toNat_ofNat]
      omega
    have hlen := length_bytesFrom_le p.payload 4 (p.plen.toNat - 4)
    have hst := h.stores.asmWrite (off := 0) (bytes := bytesFrom p.payload 4 (p.plen.toNat - 4)) (by omega)
    refine Rcv.deliverIfComplete_asmSound (hst.congr rfl rfl rfl) (fun h0 => ?_) ?_ hmax rfl
    · have h0 := congrArg BitVec.toNat h0
      exact BitVec.eq_of_toNat_eq (hempty (hn.symm.trans h0))
    · show (BitVec.ofNat 32 (p.plen.toNat - 4)).toNat ≤ _
      rw [hn]
      exact hfit

theorem Rcv.AsmSound.consumeNext {c : Config} {r : Rcv} (h : r.AsmSound c) (hact : r.asmActive = true) (p : Fields) :
    Rcv.AsmSound c (r.consumeNext p).unit := by
  obtain ⟨hpos, -, hmax⟩ := h.asm.busy hact
  rcases r.consumeNext_cases p with ⟨-, e⟩ | ⟨hfit, e⟩ <;> rw [e]
  · exact h
  · have hoff : (r.asmOff + BitVec.ofNat 32 p.plen.toNat).toNat = r.asmOff.toNat + p.plen.toNat := by
      have := r.asmSize.isLt
      rw [BitVec.toNat_add, BitVec.toNat_ofNat]
      omega
    have hlen := length_bytesFrom_le p.payload 0 p.plen.toNat
    have hst := h.stores.asmWrite (off := r.asmOff.toNat) (bytes := bytesFrom p.payload 0 p.plen.toNat) (by omega)
    refine Rcv.deliverIfComplete_asmSound (hst.congr rfl rfl rfl) (fun h0 => ?_) ?_ hmax hact
    · have h0 : (r.asmOff + BitVec.ofNat 32 p.plen.toNat).toNat = 0 := congrArg BitVec.toNat h0
      omega
    · show (r.asmOff + BitVec.ofNat 32 p.plen.toNat).toNat ≤ _
      rw [hoff]
      exact hfit

/-- CONSUME keeps the stores' form and R34 (c), whether it takes the frame or not (43_receiver.md R215). -/
theorem Rcv.AsmSound.consume {c : Config} {r : Rcv} (h : r.AsmSound c) (g : Frame) :
    Rcv.AsmSound c (r.consume c g).unit := by
  unfold Rcv.consume
  by_cases hp : c.maxPayload < (frmParse g).plen.toNat
  · simpa [hp] using h
  · cases hact : r.asmActive with
    | true => simpa [hp] using h.consumeNext hact (frmParse g)
    | false => simpa [hp] using h.consumeFirst (frmParse g)

/-- What a procedure of RCV leaves: the mode and the fault register as they were, the stores in form, and R34 unless
a fault ended it. -/
structure Rcv.KeepsInv (c : Config) (r : Rcv) (p : Progress Rcv) : Prop where
  mode : p.unit.mode = r.mode
  fault : p.unit.fault = r.fault
  stores : p.unit.StoreInv c
  inv : p.raised = none → p.unit.Inv c

/-- DRAIN ends at a clear flag: the frames held are numbered below `expected + k`, so `k` turns are enough, and each
turn keeps what is held (43_receiver.md R214). -/
theorem Rcv.drain_inv {c : Config} (hc : c.legal = true) {k : Nat} (hk : k ≤ c.window) {r : Rcv} (h : r.AsmSound c)
    (hheld : Rcv.HeldBelow c k r.occ r.rwin r.expected) :
    (Rcv.drain c k r).unit.StoreInv c ∧
      ((Rcv.drain c k r).raised = none → (Rcv.drain c k r).unit.Inv c) := by
  induction k generalizing r with
  | zero =>
    refine ⟨h.stores, fun _ => .of_heldBelow ?_ (hheld.mono hk) h.asm⟩
    refine Bool.eq_false_iff.mpr fun ho => ?_
    obtain ⟨-, -, hge, hlt, -⟩ := hheld _ ho
    omega
  | succ k ih =>
    have hcleared : Rcv.AsmSound c (r.setOcc c r.expected false) := ⟨h.stores.setOcc hc _ _, h.asm⟩
    rcases r.drain_step c k with ⟨ho, e⟩ | ⟨-, -, e⟩ | ⟨ho, -, hsame, e⟩ <;> rw [e]
    · exact ⟨h.stores, fun _ => .of_heldBelow ho (hheld.mono hk) h.asm⟩
    · exact ⟨hcleared.stores, nofun⟩
    · have hcons := hcleared.consume (r.rwinAt c r.expected)
      refine ih (by omega) ⟨hcons.stores.congr rfl rfl rfl, hcons.asm⟩ ?_
      have hadv := hheld.advance h.stores.occCanonical hk ho
      show Rcv.HeldBelow c k (Rcv.consume _ _ _).unit.occ (Rcv.consume _ _ _).unit.rwin
        ((Rcv.consume _ _ _).unit.expected + 1)
      rw [hsame.occ, hsame.rwin, hsame.expected]
      exact hadv

theorem Rcv.inWindow_iff (c : Config) (r : Rcv) (seq : Word) :
    r.inWindow c seq = true ↔
      r.expected.toNat ≤ seq.toNat ∧ seq.toNat < r.expected.toNat + c.window ∧ seq.toNat ≤ 0xFFFFFFFE := by
  simp [Rcv.inWindow, and_assoc]

/-- RCV.FRAME keeps R34 on a valid frame in the window (43_receiver.md R212). -/
theorem Rcv.acceptFrame_keepsInv {c : Config} (hc : c.legal = true) {r : Rcv} (hst : r.StoreInv c) (h : r.Inv c)
    {f : Frame} (hf : f.length = c.frameSize) (hv : chkValidate c f = true)
    (hin : r.inWindow c (frmParse f).seq = true) : r.KeepsInv c (r.acceptFrame c (frmParse f).seq f) := by
  obtain ⟨hge, hlt, hmax⟩ := (r.inWindow_iff c _).1 hin
  have hst' : (r.store c (frmParse f).seq f).StoreInv c := (hst.setRwin hc _ hf).setOcc hc _ true
  have hheld := h.heldBelow.store hst hv hge hlt hmax
  unfold Rcv.acceptFrame
  by_cases he : (frmParse f).seq = r.expected
  · have hd := drain_inv hc (Nat.le_refl _) ⟨hst', h.asmInv⟩ hheld
    obtain ⟨hmode, hfault, -⟩ := (r.store c (frmParse f).seq f).drain_frame c c.window
    simp only [if_pos he]
    cases hr : (Rcv.drain c c.window (r.store c (frmParse f).seq f)).raised with
    | none => exact ⟨hmode, hfault, hd.1, fun _ => hd.2 hr⟩
    | some x => exact ⟨hmode, hfault, hd.1, hd.2⟩
  · simp only [if_neg he]
    refine ⟨rfl, rfl, hst', fun _ => .of_heldBelow ?_ hheld h.asmInv⟩
    have hslot : slotOf c r.expected ≠ slotOf c (frmParse f).seq := fun hs =>
      he (BitVec.eq_of_toNat_eq (eq_of_mod_eq_of_lt hge hlt hs.symm))
    exact (Store.read_write_other hslot true).trans h.gap

theorem Rcv.onFrame_keepsInv {c : Config} (hc : c.legal = true) {r : Rcv} (hst : r.StoreInv c) (h : r.Inv c)
    {f : Frame} (hf : f.length = c.frameSize) : r.KeepsInv c (r.onFrame c f) := by
  unfold Rcv.onFrame
  rcases r.frameCondition_cases c f with ⟨-, e⟩ | ⟨-, -, e⟩ | ⟨hv, hin, e⟩ <;> rw [e]
  · exact ⟨rfl, rfl, hst, fun _ => h⟩
  · exact ⟨rfl, rfl, hst, fun _ => h⟩
  · exact acceptFrame_keepsInv hc hst h hf hv hin

end Sys2Proof.Machine
end

section
/-! SND keeps its invariants (10_state.md R30): R30 falls into what the queue and what the window must satisfy, each
iteration of WINDOW_FILL keeps both, and the operations follow. -/

namespace Sys2Proof.Machine

/-- R30 (d), (e) and R41, of the queue, the message numbers and the cursor. -/
structure Snd.QueueInv (c : Config) (q : List QEntry) (msgNext curMsgSeq curOff : Word) : Prop where
  counted : q.length = (msgNext - curMsgSeq).toNat
  bounded : q.length ≤ c.queueCap
  numbered : ∀ k m, q[k]? = some m → m.mseq = curMsgSeq + BitVec.ofNat 32 k
  entries : ∀ m ∈ q, m.data.length = m.len.toNat ∧ m.len.toNat ≤ c.msgMax
  cursor : ∀ m, q.head? = some m → curOff = 0 ∨ curOff.toNat < m.len.toNat
  cursorIdle : q = [] → curOff = 0

/-- R30 (g) of one frame number: its slot holds its data frame. -/
def Snd.Stored (c : Config) (win : Store Frame) (s : Word) : Prop :=
  let f := Store.read (blankFrame c) win (slotOf c s)
  (∃ (plen : Byte) (payload : List Byte), plen.toNat ≤ c.maxPayload ∧ payload.length = plen.toNat ∧
    f = frmData c s plen payload) ∧
  (frmParse f).seq = s ∧ chkValidate c f = true

/-- R30 (a), (c) and (g), of the frame numbers and the window. -/
structure Snd.WindowInv (c : Config) (ackExpected nextSeq : Word) (nbuffered : Nat) (win : Store Frame) : Prop where
  counted : nbuffered = nextSeq.toNat - ackExpected.toNat
  bounded : nbuffered ≤ c.window
  ordered : ackExpected.toNat ≤ nextSeq.toNat
  stored : ∀ s : Word, ackExpected.toNat ≤ s.toNat → s.toNat < nextSeq.toNat → Snd.Stored c win s

/-- What every iteration of WINDOW_FILL keeps. -/
structure Snd.FillInv (c : Config) (u : Snd) : Prop where
  stores : u.StoreInv c
  queue : Snd.QueueInv c u.q u.msgNext u.curMsgSeq u.curOff
  window : Snd.WindowInv c u.ackExpected u.nextSeq u.nbuffered u.win

theorem Snd.Inv.fillInv {c : Config} {u : Snd} (hst : u.StoreInv c) (h : u.Inv c) : u.FillInv c where
  stores := hst
  queue := ⟨h.queueCounted, h.queueBounded, h.numbered, h.entries, h.cursor, h.cursorIdle⟩
  window := ⟨h.counted, h.bounded, h.ordered, h.stored⟩

/-- R30 is what the loop keeps, with TRANSMIT done and the timer running exactly when a frame is outstanding. -/
theorem Snd.FillInv.inv {c : Config} {u : Snd} (h : u.FillInv c) (htransmitted : u.nextToTransmit = u.nextSeq)
    (htimer : u.tmrRun = true ↔ 0 < u.nbuffered) : u.Inv c where
  counted := h.window.counted
  bounded := h.window.bounded
  transmitted := htransmitted
  ordered := h.window.ordered
  queueCounted := h.queue.counted
  queueBounded := h.queue.bounded
  numbered := h.queue.numbered
  entries := h.queue.entries
  cursor := h.queue.cursor
  cursorIdle := h.queue.cursorIdle
  timer := htimer
  stored := h.window.stored

/-- The stores' form depends on the window alone. -/
theorem Snd.StoreInv.congr {c : Config} {u v : Snd} (h : u.StoreInv c) (hwin : v.win = u.win) : v.StoreInv c where
  canonical := hwin ▸ h.canonical
  slots := hwin ▸ h.slots

/-! ### One fragment -/

/-- A fragment holds no more of the message than is left of it (42_sender.md R176). -/
theorem Snd.fragment_le {c : Config} {u : Snd} {m : QEntry} (hcur : u.curOff = 0 ∨ u.curOff.toNat < m.len.toNat) :
    u.curOff.toNat + (u.fragment c m).2 ≤ m.len.toNat := by
  by_cases h0 : u.curOff = 0
  · simp [Snd.fragment, h0]
  · have hlt := hcur.resolve_left h0
    simp only [Snd.fragment, if_neg h0]
    omega

/-- `plen` fits the frame and counts the payload's bytes (41_framer.md R151). -/
theorem Snd.fragment_fits {c : Config} (hc : c.legal = true) {u : Snd} {m : QEntry}
    (hdata : m.data.length = m.len.toNat) :
    (u.fragmentLength c m).toNat ≤ c.maxPayload ∧
      (u.fragment c m).1.length = (u.fragmentLength c m).toNat := by
  obtain ⟨hmin, hmax, -⟩ := legal_bounds hc
  have hpay : c.maxPayload = c.frameSize - 7 := rfl
  unfold Snd.fragmentLength Snd.fragment
  split
  · simp only [BitVec.toNat_ofNat, List.length_append, length_put32, bytesFrom, List.drop_zero, List.length_take]
    omega
  · simp only [BitVec.toNat_ofNat, bytesFrom, List.length_take, List.length_drop]
    omega

/-! ### One iteration of WINDOW_FILL -/

theorem Snd.StoreInv.fillOne {c : Config} (hc : c.legal = true) {u : Snd} {m : QEntry} (h : u.StoreInv c)
    (hdata : m.data.length = m.len.toNat) : (u.fillOne c m).StoreInv c := by
  obtain ⟨hmin, -⟩ := legal_bounds hc
  obtain ⟨hfit, hlen⟩ := u.fragment_fits hc hdata
  have hwin := (u.fillOne_window c m).2.2.2
  refine ⟨hwin ▸ Store.write_wf h.canonical _ _, fun p hp => ?_⟩
  rw [hwin] at hp
  rcases Store.mem_write hp with rfl | hp
  · exact ⟨slotOf_lt hc _, length_frmData c _ _ _ (by omega) (by omega)⟩
  · exact h.slots p hp

/-- The frame just built stands in its slot, and no other outstanding frame shares that slot: fewer than `W` are
outstanding. -/
theorem Snd.WindowInv.fillOne {c : Config} (hc : c.legal = true) {u : Snd} {m : QEntry} (h : u.FillInv c)
    (hdata : m.data.length = m.len.toNat) (hroom : u.nbuffered < c.window) (hnum : u.nextSeq ≠ noneYet) :
    Snd.WindowInv c u.ackExpected (u.nextSeq + 1) (u.nbuffered + 1)
      (Store.write (blankFrame c) u.win (slotOf c u.nextSeq) (u.fragmentFrame c m)) := by
  obtain ⟨hcounted, -, hordered, hstored⟩ := h.window
  have hsucc : (u.nextSeq + 1).toNat = u.nextSeq.toNat + 1 := by bv_omega
  refine ⟨by omega, hroom, by omega, fun s hge hlt => ?_⟩
  by_cases hs : s = u.nextSeq
  · subst hs
    unfold Snd.Stored
    rw [Store.read_write_same h.stores.canonical]
    obtain ⟨hfit, hlen⟩ := u.fragment_fits hc hdata
    exact ⟨⟨_, _, hfit, hlen, rfl⟩, frmParse_frmData_seq c _ _ _, chkValidate_frmData c _ _ _⟩
  · have hne : s.toNat ≠ u.nextSeq.toNat := fun he => hs (BitVec.eq_of_toNat_eq he)
    have hslot : slotOf c s ≠ slotOf c u.nextSeq := fun he =>
      hne (eq_of_mod_eq_of_lt (by omega) (by omega) he.symm).symm
    unfold Snd.Stored
    rw [Store.read_write_other hslot]
    exact hstored s hge (by omega)

/-- The head message leaves the queue. -/
theorem Snd.QueueInv.pop {c : Config} {m : QEntry} {rest : List QEntry} {msgNext cur off : Word}
    (h : Snd.QueueInv c (m :: rest) msgNext cur off) : Snd.QueueInv c rest msgNext (cur + 1) 0 where
  counted := by
    have hcounted := h.counted
    rw [List.length_cons] at hcounted
    bv_omega
  bounded := (Nat.le_succ _).trans h.bounded
  numbered := fun k e he => by
    rw [h.numbered (k + 1) e he]
    bv_omega
  entries := fun e he => h.entries e (List.mem_cons_of_mem _ he)
  cursor := fun _ _ => .inl rfl
  cursorIdle := fun _ => rfl

/-- The cursor moves inside the head message. -/
theorem Snd.QueueInv.advance {c : Config} {m : QEntry} {rest : List QEntry} {msgNext cur off off' : Word}
    (h : Snd.QueueInv c (m :: rest) msgNext cur off) (hlt : off'.toNat < m.len.toNat) :
    Snd.QueueInv c (m :: rest) msgNext cur off' :=
  { h with
    cursor := fun e he => by
      cases he
      exact .inr hlt
    cursorIdle := nofun }

/-- SND.MSG appends a message whose data is as long as it says (42_sender.md R172). -/
theorem Snd.QueueInv.append {c : Config} (hc : c.legal = true) {q : List QEntry} {msgNext cur off : Word}
    (h : Snd.QueueInv c q msgNext cur off) (hfull : q.length ≠ c.queueCap) {len : Word} {data : List Byte}
    (hdata : data.length = len.toNat) (hlen : len.toNat ≤ c.msgMax) :
    Snd.QueueInv c (q ++ [⟨msgNext, len, data⟩]) (msgNext + 1) cur off where
  counted := by
    obtain ⟨-, -, -, hcap, -⟩ := legal_bounds hc
    have hcounted := h.counted
    have hbounded := h.bounded
    rw [List.length_append, List.length_singleton]
    bv_omega
  bounded := by
    have hbounded := h.bounded
    rw [List.length_append, List.length_singleton]
    omega
  numbered := fun k e he => by
    have hcounted := h.counted
    rcases Nat.lt_or_ge k q.length with hk | hk
    · rw [List.getElem?_append_left hk] at he
      exact h.numbered k e he
    · rw [List.getElem?_append_right hk, List.getElem?_singleton] at he
      split at he
      · cases he
        show msgNext = _
        bv_omega
      · cases he
  entries := fun e he => by
    rcases List.mem_append.1 he with he | he
    · exact h.entries e he
    · cases List.mem_singleton.1 he
      exact ⟨hdata, hlen⟩
  cursor := fun e he => by
    cases q with
    | nil => exact .inl (h.cursorIdle rfl)
    | cons m rest => exact h.cursor e he
  cursorIdle := fun he => by simp at he

/-- One iteration of WINDOW_FILL keeps what the loop keeps (42_sender.md R176). -/
theorem Snd.FillInv.fillOne {c : Config} (hc : c.legal = true) {u : Snd} {m : QEntry} {rest : List QEntry}
    (h : u.FillInv c) (hq : u.q = m :: rest) (hroom : u.nbuffered < c.window) (hnum : u.nextSeq ≠ noneYet) :
    (u.fillOne c m).FillInv c := by
  have hqueue := h.queue
  rw [hq] at hqueue
  have hdata := (hqueue.entries m List.mem_cons_self).1
  have hcur := hqueue.cursor m rfl
  have hsame := u.fillOne_sameOutside c m
  obtain ⟨hseq, hcount, -, hwin⟩ := u.fillOne_window c m
  refine ⟨h.stores.fillOne hc hdata, ?_, ?_⟩
  · rcases u.fillOne_cases c m with ⟨-, hq', hcur', hoff'⟩ | ⟨hne, hq', hcur', hoff'⟩ <;>
      rw [hq', hcur', hoff', hsame.msgNext, hq]
    · exact hqueue.pop
    · refine hqueue.advance (Nat.lt_of_le_of_ne ?_ fun he => hne (BitVec.eq_of_toNat_eq he))
      have hle := u.fragment_le (c := c) hcur
      have hlen := m.len.isLt
      rw [BitVec.toNat_add, BitVec.toNat_ofNat]
      omega
  · rw [hseq, hcount, hwin, hsame.ackExpected]
    exact .fillOne hc h hdata hroom hnum

/-! ### The loop -/

/-- One turn of WINDOW_FILL's loop: there is nothing to cut or no room, or no number is left, or a fragment is cut and
the loop goes on (42_sender.md R176). -/
theorem Snd.fillLoop_step (c : Config) (k : Nat) (u : Snd) :
    ((u.q = [] ∨ c.window ≤ u.nbuffered) ∧ Snd.fillLoop c (k + 1) u = (u, none)) ∨
    (∃ m rest, u.q = m :: rest ∧ u.nbuffered < c.window ∧
      ((u.nextSeq = noneYet ∧ Snd.fillLoop c (k + 1) u = (u, some ⟨.seqExhausted, u.nextSeq⟩)) ∨
       (u.nextSeq ≠ noneYet ∧ Snd.fillLoop c (k + 1) u = Snd.fillLoop c k (u.fillOne c m)))) := by
  cases hq : u.q with
  | nil => exact .inl ⟨.inl rfl, by simp [Snd.fillLoop, hq]⟩
  | cons m rest =>
    by_cases hroom : u.nbuffered < c.window
    · refine .inr ⟨m, rest, rfl, hroom, ?_⟩
      by_cases hnum : u.nextSeq = noneYet
      · exact .inl ⟨hnum, by simp [Snd.fillLoop, hq, hroom, hnum]⟩
      · exact .inr ⟨hnum, by simp [Snd.fillLoop, hq, hroom, hnum]⟩
    · exact .inl ⟨.inr (by omega), by simp [Snd.fillLoop, hq, hroom]⟩

theorem Snd.FillInv.fillLoop {c : Config} (hc : c.legal = true) (k : Nat) {u : Snd} (h : u.FillInv c) :
    (Snd.fillLoop c k u).1.FillInv c := by
  induction k generalizing u with
  | zero => exact h
  | succ k ih =>
    rcases u.fillLoop_step c k with ⟨-, e⟩ | ⟨m, rest, hq, hroom, ⟨-, e⟩ | ⟨hnum, e⟩⟩ <;> rw [e]
    · exact h
    · exact h
    · exact ih (h.fillOne hc hq hroom hnum)

theorem Snd.nbuffered_le_fillLoop (c : Config) (k : Nat) (u : Snd) :
    u.nbuffered ≤ (Snd.fillLoop c k u).1.nbuffered := by
  induction k generalizing u with
  | zero => exact Nat.le_refl _
  | succ k ih =>
    rcases u.fillLoop_step c k with ⟨-, e⟩ | ⟨m, -, -, -, ⟨-, e⟩ | ⟨-, e⟩⟩ <;> rw [e]
    have := ih (u.fillOne c m)
    rw [(u.fillOne_window c m).2.1] at this
    omega

/-- The loop leaves a frame outstanding when there is a message to cut (42_sender.md R172): either one was, or there
is room for the first. -/
theorem Snd.fillLoop_nbuffered_pos {c : Config} (hc : c.legal = true) {u : Snd} (hq : u.q ≠ [])
    (hr : (Snd.fillLoop c c.window u).2 = none) : 0 < (Snd.fillLoop c c.window u).1.nbuffered := by
  obtain ⟨-, -, hw, -⟩ := legal_bounds hc
  obtain ⟨k, hk⟩ := Nat.exists_eq_succ_of_ne_zero (by omega : c.window ≠ 0)
  rw [hk] at hr ⊢
  rcases u.fillLoop_step c k with ⟨hstop, e⟩ | ⟨m, rest, -, -, ⟨-, e⟩ | ⟨-, e⟩⟩
  · rw [e]
    rcases hstop with hnil | hfull
    · exact absurd hnil hq
    · exact Nat.lt_of_lt_of_le hw hfull
  · rw [Nat.succ_eq_add_one, e] at hr
    cases hr
  · rw [Nat.succ_eq_add_one, e]
    have := nbuffered_le_fillLoop c k (u.fillOne c m)
    rw [(u.fillOne_window c m).2.1] at this
    omega

/-! ### The operations in mode READY -/

/-- What a procedure of SND leaves: the mode and the fault register as they were, the window in form, and R30 unless a
fault ended it. -/
structure Snd.KeepsInv (c : Config) (u : Snd) (p : Progress Snd) : Prop where
  mode : p.unit.mode = u.mode
  fault : p.unit.fault = u.fault
  stores : p.unit.StoreInv c
  inv : p.raised = none → p.unit.Inv c

/-- WINDOW_FILL keeps what its loop keeps, and TRANSMIT has run unless a fault ended it (42_sender.md R176). -/
theorem Snd.FillInv.windowFill {c : Config} (hc : c.legal = true) {u : Snd} (h : u.FillInv c) :
    (u.windowFill c).unit.FillInv c ∧
      ((u.windowFill c).raised = none → (u.windowFill c).unit.nextToTransmit = (u.windowFill c).unit.nextSeq) := by
  have hloop := h.fillLoop hc c.window
  rcases u.windowFill_cases c with ⟨-, e⟩ | ⟨-, -, e⟩ <;> rw [e]
  · exact ⟨⟨hloop.stores.congr rfl, hloop.queue, hloop.window⟩, fun _ => rfl⟩
  · exact ⟨hloop, nofun⟩

theorem Snd.windowFill_nbuffered_pos {c : Config} (hc : c.legal = true) {u : Snd} (hq : u.q ≠ [])
    (hr : (u.windowFill c).raised = none) : 0 < (u.windowFill c).unit.nbuffered := by
  rcases u.windowFill_cases c with ⟨hloop, e⟩ | ⟨-, -, e⟩ <;> rw [e] at hr ⊢
  · exact fillLoop_nbuffered_pos hc hq hloop
  · cases hr

theorem Snd.onMessage_keepsInv {c : Config} (hc : c.legal = true) {u : Snd} (hst : u.StoreInv c) (h : u.Inv c)
    {len : Word} {data : List Byte} (hdata : data.length = len.toNat) :
    u.KeepsInv c (u.onMessage c len data) := by
  have hfill := h.fillInv hst
  rcases u.onMessage_cases c len data with ⟨-, e⟩ | ⟨-, -, e⟩ | ⟨hlen, hfull, -, e⟩ | ⟨hlen, hfull, -, e⟩ <;> rw [e]
  · exact ⟨rfl, rfl, hst, nofun⟩
  · exact ⟨rfl, rfl, hst, nofun⟩
  · have happ := hfill.queue.append hc hfull hdata hlen
    have hst' : ({ u with q := u.q ++ [⟨u.msgNext, len, data⟩], msgNext := u.msgNext + 1 } : Snd).StoreInv c :=
      hst.congr rfl
    exact ⟨rfl, rfl, hst', fun _ => Snd.FillInv.inv ⟨hst', happ, hfill.window⟩ h.transmitted h.timer⟩
  · have happ := hfill.queue.append hc hfull hdata hlen
    generalize hv : ({ u with
      q := u.q ++ [⟨u.msgNext, len, data⟩], msgNext := u.msgNext + 1, tmrRun := true } : Snd) = v
    have hvfill : v.FillInv c := hv ▸ ⟨hst.congr rfl, happ, hfill.window⟩
    have hq : v.q ≠ [] := by simp [← hv]
    have hsame := v.windowFill_sameOutside c
    obtain ⟨hkept, htransmitted⟩ := hvfill.windowFill hc
    refine ⟨hsame.mode.trans (hv ▸ rfl), hsame.fault.trans (hv ▸ rfl), hkept.stores, fun hr => ?_⟩
    have hrun : (v.windowFill c).unit.tmrRun = true := hsame.tmrRun.trans (hv ▸ rfl)
    exact hkept.inv (htransmitted hr) ⟨fun _ => windowFill_nbuffered_pos hc hq hr, fun _ => hrun⟩

theorem Snd.ackInRange_iff (u : Snd) (ack : Word) :
    u.ackInRange ack = true ↔ u.ackExpected.toNat ≤ ack.toNat ∧ ack.toNat < u.nextSeq.toNat := by
  simp [Snd.ackInRange]

/-- An in-range acknowledgment releases the frames up to its number (42_sender.md R173). -/
theorem Snd.WindowInv.release {c : Config} {ackExpected nextSeq ack : Word} {n : Nat} {win : Store Frame}
    (h : Snd.WindowInv c ackExpected nextSeq n win) (hge : ackExpected.toNat ≤ ack.toNat)
    (hlt : ack.toNat < nextSeq.toNat) :
    Snd.WindowInv c (ack + 1) nextSeq (n - (ack.toNat - ackExpected.toNat + 1)) win := by
  obtain ⟨hcounted, hbounded, hordered, hstored⟩ := h
  have hsucc : (ack + 1).toNat = ack.toNat + 1 := by bv_omega
  exact ⟨by omega, by omega, by omega, fun s hs => hstored s (by omega)⟩

/-- With R30 (a) and (c), nothing is outstanding exactly when `ack_expected = next_seq`. -/
theorem Snd.WindowInv.nbuffered_pos_iff {c : Config} {ackExpected nextSeq : Word} {n : Nat} {win : Store Frame}
    (h : Snd.WindowInv c ackExpected nextSeq n win) : 0 < n ↔ ackExpected ≠ nextSeq := by
  obtain ⟨hcounted, -, hordered, -⟩ := h
  rw [hcounted, Ne, ← BitVec.toNat_inj]
  omega

theorem Snd.acceptAck_keepsInv {c : Config} (hc : c.legal = true) {u : Snd} (hst : u.StoreInv c) (h : u.Inv c)
    {ack : Word} (hin : u.ackInRange ack = true) : u.KeepsInv c (u.acceptAck c ack) := by
  obtain ⟨hge, hlt⟩ := (u.ackInRange_iff ack).1 hin
  have hfill := h.fillInv hst
  have hcases := u.acceptAck_cases c ack
  generalize hv : ({ u with
    tmrRun := true
    nbuffered := u.nbuffered - (ack.toNat - u.ackExpected.toNat + 1)
    ackExpected := ack + 1 } : Snd) = v at hcases
  have hvfill : v.FillInv c := hv ▸ ⟨hst.congr rfl, hfill.queue, hfill.window.release hge hlt⟩
  have hsame := v.windowFill_sameOutside c
  obtain ⟨hkept, htransmitted⟩ := hvfill.windowFill hc
  have hmode : (v.windowFill c).unit.mode = u.mode := hsame.mode.trans (hv ▸ rfl)
  have hfault : (v.windowFill c).unit.fault = u.fault := hsame.fault.trans (hv ▸ rfl)
  have hrun : (v.windowFill c).unit.tmrRun = true := hsame.tmrRun.trans (hv ▸ rfl)
  have hpos := hkept.window.nbuffered_pos_iff
  rcases hcases with ⟨x, -, e⟩ | ⟨hr, hall, e⟩ | ⟨hr, hsome, e⟩ <;> rw [e]
  · exact ⟨hmode, hfault, hkept.stores, nofun⟩
  · have hst' := hkept.stores.congr (v := (v.windowFill c).unit.timerOff) rfl
    exact ⟨hmode, hfault, hst', fun _ => Snd.FillInv.inv ⟨hst', hkept.queue, hkept.window⟩ (htransmitted hr)
      ⟨nofun, fun hp => absurd hall (hpos.1 hp)⟩⟩
  · exact ⟨hmode, hfault, hkept.stores, fun _ => hkept.inv (htransmitted hr) ⟨fun _ => hpos.2 hsome, fun _ => hrun⟩⟩

theorem Snd.onAck_keepsInv {c : Config} (hc : c.legal = true) {u : Snd} (hst : u.StoreInv c) (h : u.Inv c)
    (f : Frame) : u.KeepsInv c (u.onAck c f) := by
  unfold Snd.onAck
  rcases u.ackCondition_cases c f with ⟨-, e⟩ | ⟨-, -, e⟩ | ⟨-, hin, e⟩ <;> rw [e]
  · exact ⟨rfl, rfl, hst, fun _ => h⟩
  · exact ⟨rfl, rfl, hst, fun _ => h⟩
  · exact acceptAck_keepsInv hc hst h hin

/-- SND.TIMEOUT leaves the timer running and every frame transmitted, as R30 (b) and (f) ask: the timer ran, so a
frame is outstanding (42_sender.md R174). -/
theorem Snd.onTimeout_keepsInv {c : Config} {u : Snd} (hst : u.StoreInv c) (h : u.Inv c) (hrun : u.tmrRun = true) :
    u.KeepsInv c (u.onTimeout c) := by
  have hfill := h.fillInv hst
  have hst' : (u.onTimeout c).unit.StoreInv c := hst.congr rfl
  exact ⟨rfl, rfl, hst', fun _ => Snd.FillInv.inv ⟨hst', hfill.queue, hfill.window⟩ rfl
    ⟨fun _ => h.timer.1 hrun, fun _ => rfl⟩⟩

end Sys2Proof.Machine
end

section
/-! Every step keeps the invariant of the block: what an operation of each unit can answer, said once, and what each
of these answers keeps. -/

namespace Sys2Proof.Machine

/-- What runs in a READY sender: the procedures of the three events that are neither INIT nor FINAL
(42_sender.md R172 to R174). -/
inductive Snd.Runs (c : Config) (u : Snd) : Instr → Progress Snd → Prop where
  | message {len : Word} {data : List Byte} (hdata : data.length = len.toNat) :
      Snd.Runs c u (.sndMsg len data) (u.onMessage c len data)
  | ack {f : Frame} (hf : f.length = c.frameSize) : Snd.Runs c u (.sndAckf f) (u.onAck c f)
  | timeout (hrun : u.tmrRun = true) : Snd.Runs c u .sndTimeout (u.onTimeout c)

/-- Everything a SND operation can answer with a next state (42_sender.md R170 to R175). -/
theorem exec_snd_cases {i : Instr} {s t : State} (hi : ownerOf i = some .snd) (h : exec i s = .next t) :
    (i = .sndInit ∧ t = enterReady .snd ({ s with snd := s.snd.fresh }.settle s.snd.stopIfRunning)) ∨
    (s.snd.mode = .halted ∧ t = s.settle []) ∨
    (s.snd.mode = .ready ∧ ∃ p, Snd.Runs s.cfg s.snd i p ∧ t = s.endSnd p) ∨
    (i = .sndFinal ∧ s.snd.mode ≠ .off ∧ t = enterOff .snd
      ({ s with snd := s.snd.final s.cfg s.sndFree, sndFree := s.sndFree + sndStride }.settle
        s.snd.stopIfRunning)) := by
  cases i with
  | sndInit => exact .inl ⟨rfl, (Host.Outcome.next.inj h).symm⟩
  | sndMsg len data =>
    obtain ⟨hwf, h⟩ := withOperands_next h
    rcases guardMode_next h with hh | ⟨hm, ht⟩
    · exact .inr (.inl hh)
    · exact .inr (.inr (.inl ⟨hm, _, .message (by simpa [Instr.wf] using hwf), ht⟩))
  | sndAckf f =>
    obtain ⟨hwf, h⟩ := withOperands_next h
    rcases guardMode_next h with hh | ⟨hm, ht⟩
    · exact .inr (.inl hh)
    · exact .inr (.inr (.inl ⟨hm, _, .ack (by simpa [Instr.wf, Frame.whole] using hwf), ht⟩))
  | sndTimeout =>
    change execSndTimeout s = .next t at h
    cases hm : s.snd.mode with
    | off => simp [execSndTimeout, hm] at h
    | halted => simp [execSndTimeout, hm] at h
    | ready =>
      cases hrun : s.snd.tmrRun with
      | false => simp [execSndTimeout, hm, hrun] at h
      | true =>
        simp only [execSndTimeout, hm, hrun, if_true, Host.Outcome.next.injEq] at h
        exact .inr (.inr (.inl ⟨rfl, _, .timeout hrun, h.symm⟩))
  | sndFinal =>
    refine .inr (.inr (.inr ⟨rfl, ?_⟩))
    change execSndFinal s = .next t at h
    cases hm : s.snd.mode with
    | off => simp [execSndFinal, hm] at h
    | ready | halted =>
      simp only [execSndFinal, hm, Host.Outcome.next.injEq] at h
      exact ⟨nofun, h.symm⟩
  | chkSum | chkValidate | chkStamp | frmData | frmAck | frmParse | rcvInit | rcvFrame | rcvFinal => cases hi

/-- Everything a RCV operation can answer with a next state (43_receiver.md R210 to R213). -/
theorem exec_rcv_cases {i : Instr} {s t : State} (hi : ownerOf i = some .rcv) (h : exec i s = .next t) :
    (i = .rcvInit ∧ t = enterReady .rcv ({ s with rcv := s.rcv.fresh }.settle [])) ∨
    (s.rcv.mode = .halted ∧ t = s.settle []) ∨
    (s.rcv.mode = .ready ∧ ∃ f, i = .rcvFrame f ∧ f.length = s.cfg.frameSize ∧
      t = s.endRcv (s.rcv.onFrame s.cfg f)) ∨
    (i = .rcvFinal ∧ s.rcv.mode ≠ .off ∧ t = enterOff .rcv
      ({ s with rcv := s.rcv.final s.rcvFree, rcvFree := s.rcvFree + rcvStride }.settle [])) := by
  cases i with
  | rcvInit => exact .inl ⟨rfl, (Host.Outcome.next.inj h).symm⟩
  | rcvFrame f =>
    obtain ⟨hwf, h⟩ := withOperands_next h
    rcases guardMode_next h with hh | ⟨hm, ht⟩
    · exact .inr (.inl hh)
    · exact .inr (.inr (.inl ⟨hm, f, rfl, by simpa [Instr.wf, Frame.whole] using hwf, ht⟩))
  | rcvFinal =>
    refine .inr (.inr (.inr ⟨rfl, ?_⟩))
    change execRcvFinal s = .next t at h
    cases hm : s.rcv.mode with
    | off => simp [execRcvFinal, hm] at h
    | ready | halted =>
      simp only [execRcvFinal, hm, Host.Outcome.next.injEq] at h
      exact ⟨nofun, h.symm⟩
  | chkSum | chkValidate | chkStamp | frmData | frmAck | frmParse | sndInit | sndMsg | sndAckf | sndTimeout
  | sndFinal => cases hi

/-- No operation changes the build (10_state.md R45). -/
theorem exec_cfg {i : Instr} {s t : State} (h : exec i s = .next t) : t.cfg = s.cfg := by
  cases hi : ownerOf i with
  | none =>
    obtain ⟨v, hv⟩ := exec_answers hi s.cfg
    rw [hv s rfl] at h
    obtain ⟨-, h⟩ := withOperands_next h
    cases h
    rfl
  | some unit =>
    cases unit with
    | snd =>
      rcases exec_snd_cases hi h with ⟨-, rfl⟩ | ⟨-, rfl⟩ | ⟨-, p, -, rfl⟩ | ⟨-, -, rfl⟩
      · rfl
      · rfl
      · exact s.endSnd_cfg p
      · rfl
    | rcv =>
      rcases exec_rcv_cases hi h with ⟨-, rfl⟩ | ⟨-, rfl⟩ | ⟨-, f, -, -, rfl⟩ | ⟨-, -, rfl⟩
      · rfl
      · rfl
      · exact s.endRcv_cfg _
      · rfl

/-- The sender's share of the invariant of the block. -/
structure Snd.UnitInv (c : Config) (u : Snd) : Prop where
  stores : u.StoreInv c
  fault : (u.mode = .ready → u.fault = 0) ∧ (u.mode = .halted → u.fault ≠ 0)
  inv : u.mode = .ready → u.Inv c

/-- The receiver's share of the invariant of the block. -/
structure Rcv.UnitInv (c : Config) (r : Rcv) : Prop where
  stores : r.StoreInv c
  fault : (r.mode = .ready → r.fault = 0) ∧ (r.mode = .halted → r.fault ≠ 0)
  inv : r.mode = .ready → r.Inv c

theorem State.inv_iff (s : State) :
    s.Inv ↔ s.cfg.legal = true ∧ s.snd.UnitInv s.cfg ∧ s.rcv.UnitInv s.cfg :=
  ⟨fun h => ⟨h.legal, ⟨h.sndStores, h.sndFault, h.snd⟩, ⟨h.rcvStores, h.rcvFault, h.rcv⟩⟩,
    fun ⟨hc, hs, hr⟩ => ⟨hc, hs.stores, hr.stores, hs.fault, hr.fault, hs.inv, hr.inv⟩⟩

/-- In mode OFF the invariant asks for the stores' form alone. -/
theorem Snd.UnitInv.of_off {c : Config} {u : Snd} (hm : u.mode = .off) (hst : u.StoreInv c) : u.UnitInv c := by
  refine ⟨hst, ⟨fun h => ?_, fun h => ?_⟩, fun h => ?_⟩ <;> rw [hm] at h <;> cases h

theorem Rcv.UnitInv.of_off {c : Config} {r : Rcv} (hm : r.mode = .off) (hst : r.StoreInv c) : r.UnitInv c := by
  refine ⟨hst, ⟨fun h => ?_, fun h => ?_⟩, fun h => ?_⟩ <;> rw [hm] at h <;> cases h

/-- After SND.INIT nothing is queued or outstanding, so R30 holds (42_sender.md R171). -/
theorem Snd.fresh_inv (c : Config) (u : Snd) (m : Mode) (b : Byte) :
    ({ u.fresh with mode := m, fault := b } : Snd).Inv c where
  counted := rfl
  bounded := Nat.zero_le _
  transmitted := rfl
  ordered := Nat.le_refl _
  queueCounted := by simp [Snd.qCount]
  queueBounded := Nat.zero_le _
  numbered := nofun
  entries := nofun
  cursor := nofun
  cursorIdle := fun _ => rfl
  timer := ⟨nofun, nofun⟩
  stored := fun _ _ hlt => absurd hlt (Nat.not_lt_zero _)

/-- After RCV.INIT nothing is buffered or in reassembly, so R34 holds (43_receiver.md R211). -/
theorem Rcv.fresh_inv (c : Config) (r : Rcv) (m : Mode) (b : Byte) :
    ({ r.fresh with mode := m, fault := b } : Rcv).Inv c where
  gap := rfl
  buffered := nofun
  active := nofun
  idle := fun _ => ⟨rfl, rfl⟩

theorem Snd.Runs.keepsInv {c : Config} (hc : c.legal = true) {u : Snd} {i : Instr} {p : Progress Snd}
    (hrun : u.Runs c i p) (hst : u.StoreInv c) (h : u.Inv c) : u.KeepsInv c p := by
  cases hrun with
  | message hdata => exact Snd.onMessage_keepsInv hc hst h hdata
  | ack _ => exact Snd.onAck_keepsInv hc hst h _
  | timeout hrun => exact Snd.onTimeout_keepsInv hst h hrun

/-- A procedure of a READY sender that keeps R30 leaves the unit READY with R30, or HALTED with a fault code
(60_exceptions.md R262). -/
theorem Snd.KeepsInv.unitInv {s : State} {p : Progress Snd} (h : s.snd.KeepsInv s.cfg p) (hm : s.snd.mode = .ready)
    (hf : s.snd.fault = 0) : (s.endSnd p).snd.UnitInv s.cfg := by
  rw [State.endSnd_snd]
  cases hr : p.raised with
  | none =>
    have hready : p.unit.mode = .ready := h.mode.trans hm
    exact ⟨h.stores, ⟨fun _ => h.fault.trans hf, fun hh => by rw [hready] at hh; cases hh⟩, fun _ => h.inv hr⟩
  | some x => exact ⟨h.stores.congr rfl, ⟨nofun, fun _ => x.cause.code_ne_zero⟩, nofun⟩

theorem Rcv.KeepsInv.unitInv {s : State} {p : Progress Rcv} (h : s.rcv.KeepsInv s.cfg p) (hm : s.rcv.mode = .ready)
    (hf : s.rcv.fault = 0) : (s.endRcv p).rcv.UnitInv s.cfg := by
  rw [State.endRcv_rcv]
  cases hr : p.raised with
  | none =>
    have hready : p.unit.mode = .ready := h.mode.trans hm
    exact ⟨h.stores, ⟨fun _ => h.fault.trans hf, fun hh => by rw [hready] at hh; cases hh⟩, fun _ => h.inv hr⟩
  | some x => exact ⟨h.stores.congr rfl rfl rfl, ⟨nofun, fun _ => x.cause.code_ne_zero⟩, nofun⟩

theorem exec_snd_unitInv {i : Instr} {s t : State} (hc : s.cfg.legal = true) (hu : s.snd.UnitInv s.cfg)
    (hi : ownerOf i = some .snd) (h : exec i s = .next t) : t.snd.UnitInv s.cfg := by
  rcases exec_snd_cases hi h with ⟨-, rfl⟩ | ⟨-, rfl⟩ | ⟨hm, p, hrun, rfl⟩ | ⟨-, -, rfl⟩
  · exact ⟨hu.stores.congr rfl, ⟨fun _ => rfl, nofun⟩, fun _ => s.snd.fresh_inv s.cfg .ready 0⟩
  · exact hu
  · exact (hrun.keepsInv hc hu.stores (hu.inv hm)).unitInv hm (hu.fault.1 hm)
  · exact .of_off rfl (hu.stores.congr rfl)

/-- The stores of RCV with no flag set. -/
theorem Rcv.StoreInv.clearOcc {c : Config} {r : Rcv} (h : r.StoreInv c) : r.clearOcc.StoreInv c :=
  { h with occCanonical := ⟨.nil, nofun⟩, occSlots := nofun }

theorem exec_rcv_unitInv {i : Instr} {s t : State} (hc : s.cfg.legal = true) (hu : s.rcv.UnitInv s.cfg)
    (hi : ownerOf i = some .rcv) (h : exec i s = .next t) : t.rcv.UnitInv s.cfg := by
  rcases exec_rcv_cases hi h with ⟨-, rfl⟩ | ⟨-, rfl⟩ | ⟨hm, f, -, hf, rfl⟩ | ⟨-, -, rfl⟩
  · exact ⟨hu.stores.clearOcc.congr rfl rfl rfl, ⟨fun _ => rfl, nofun⟩, fun _ => s.rcv.fresh_inv s.cfg .ready 0⟩
  · exact hu
  · exact (Rcv.onFrame_keepsInv hc hu.stores (hu.inv hm) hf).unitInv hm (hu.fault.1 hm)
  · exact .of_off rfl (hu.stores.clearOcc.congr rfl rfl rfl)

/-- Every operation keeps the invariant: its own unit's share by what it can do, the other's because it does not
reach it (10_state.md R20, R21). -/
theorem exec_inv {i : Instr} {s t : State} (hs : s.Inv) (h : exec i s = .next t) : t.Inv := by
  obtain ⟨hc, hu, hr⟩ := s.inv_iff.1 hs
  rw [State.inv_iff, exec_cfg h]
  refine ⟨hc, ?_⟩
  cases hi : ownerOf i with
  | none =>
    obtain ⟨hsnd, hrcv⟩ := exec_none_units hi h
    rw [hsnd, hrcv]
    exact ⟨hu, hr⟩
  | some unit =>
    cases unit with
    | snd => exact ⟨exec_snd_unitInv hc hu hi h, exec_snd_rcv hi h ▸ hr⟩
    | rcv => exact ⟨exec_rcv_snd hi h ▸ hu, exec_rcv_unitInv hc hr hi h⟩

/-- The reset input turns both units OFF and leaves their stores in form, whatever they then hold
(70_reset_and_hazards.md R290). -/
theorem hardReset_inv {s : State} (hc : s.cfg.legal = true) : (hardReset s).Inv := by
  refine (hardReset s).inv_iff.2 ⟨hc, .of_off rfl ?_, .of_off rfl ?_⟩
  · exact ⟨windowOf_wf _ _, fun p hp => mem_windowOf hp⟩
  · exact ⟨(freeOcc_wf _ _).1, (freeOcc_wf _ _).2, windowOf_wf _ _, fun p hp => mem_windowOf hp,
      Store.ofCells_wf _ _ _, fun p hp => (Store.mem_ofCells hp).2⟩

/-- The invariant does not look at the events still to deliver. -/
theorem State.Inv.withInbox {s : State} (h : s.Inv) (rest : List Event) : ({ s with inbox := rest } : State).Inv :=
  ⟨h.legal, h.sndStores, h.rcvStores, h.sndFault, h.rcvFault, h.snd, h.rcv⟩

/-- Settles O55: a step is idle, the reset input or one operation, and each keeps the invariant. -/
theorem invariantKeptByEveryStep : Obligations.InvariantKeptByEveryStep := by
  intro s t hs h
  obtain ⟨hc, ⟨-, rfl⟩ | ⟨rest, -, rfl⟩ | ⟨_, rest, i, -, -, h⟩⟩ := step_next_cases h
  · exact hs
  · exact hardReset_inv hc
  · exact exec_inv (hs.withInbox rest) h

end Sys2Proof.Machine
end

section
/-! Which codes select no operation (30_encoding.md R106), and that only the decoder answers `undecodable`. -/

namespace Sys2Proof.Machine

/-- The 5-bit codes with no row in the table of 30_encoding.md R105 are the reserved ones of R106. -/
theorem opOfCode_eq_none_iff (code : BitVec 5) :
    opOfCode code = none ↔
      code.toNat ∈ [0x03, 0x04, 0x05, 0x06, 0x07, 0x0B, 0x0C, 0x0D, 0x0E, 0x0F, 0x15, 0x16, 0x17,
        0x19, 0x1B, 0x1D, 0x1E, 0x1F] := by
  revert code
  decide

/-- The decoder names a code reserved for no other reason: an operation with a bad operand is an `operandShape`. -/
theorem decode_eq_reservedCode_iff (c : Config) (m : Command) :
    decode c m = .error .reservedCode ↔ opOfCode m.op = none := by
  refine ⟨fun h => ?_, decode_reserved c m⟩
  cases hop : opOfCode m.op with
  | none => rfl
  | some op =>
    cases hi : instrOfOperand op m.operand with
    | none => simp [decode, hop, hi] at h
    | some i => cases hwf : i.wf c <;> simp [decode, hop, hi, hwf] at h

theorem withOperands_ne_undecodable {i : Instr} {s : State} {b : Host.Outcome State Fault Refusal} {e : DecodeError}
    (hb : b ≠ .refused (.undecodable e)) : withOperands i s b ≠ .refused (.undecodable e) := by
  unfold withOperands
  split
  · exact hb
  · nofun

theorem guardMode_ne_undecodable (m : Mode) (s b : State) (e : DecodeError) :
    guardMode m s b ≠ .refused (.undecodable e) := by
  cases m <;> nofun

/-- An operation that runs has been decoded: what it refuses, it refuses for another reason. -/
theorem exec_ne_undecodable (i : Instr) (s : State) (e : DecodeError) : exec i s ≠ .refused (.undecodable e) := by
  cases ho : ownerOf i with
  | none =>
    obtain ⟨v, hv⟩ := exec_answers ho s.cfg
    rw [hv s rfl]
    exact withOperands_ne_undecodable nofun
  | some unit =>
    cases i with
    | sndMsg | sndAckf | rcvFrame => exact withOperands_ne_undecodable (guardMode_ne_undecodable _ _ _ _)
    | sndInit | rcvInit => nofun
    | sndTimeout =>
      show execSndTimeout s ≠ _
      unfold execSndTimeout
      cases s.snd.mode with
      | off | halted => nofun
      | ready => cases s.snd.tmrRun <;> nofun
    | sndFinal =>
      show execSndFinal s ≠ _
      unfold execSndFinal
      cases s.snd.mode <;> nofun
    | rcvFinal =>
      show execRcvFinal s ≠ _
      unfold execRcvFinal
      cases s.rcv.mode <;> nofun
    | chkSum | chkValidate | chkStamp | frmData | frmAck | frmParse => cases ho

/-- A command at the front of the inbox that decodes is taken off and run. -/
theorem step_of_decode_ok {s : State} {m : Command} {rest : List Event} {i : Instr} (hl : s.cfg.legal = true)
    (hi : s.inbox = .command m :: rest) (hd : decode s.cfg m = .ok i) :
    step s = exec i { s with inbox := rest } := by
  simp [step, fetch, hl, hi, hd]

/-- A command at the front of the inbox that does not decode has no step. -/
theorem step_of_decode_error {s : State} {m : Command} {rest : List Event} {e : DecodeError}
    (hl : s.cfg.legal = true) (hi : s.inbox = .command m :: rest) (hd : decode s.cfg m = .error e) :
    step s = .refused (.undecodable e) := by
  simp [step, fetch, hl, hi, hd]

/-- A step is refused as undecodable exactly when the decoder says so of the command at the front. -/
theorem step_eq_undecodable_iff {s : State} {m : Command} {rest : List Event} (e : DecodeError)
    (hl : s.cfg.legal = true) (hi : s.inbox = .command m :: rest) :
    step s = .refused (.undecodable e) ↔ decode s.cfg m = .error e := by
  refine ⟨fun h => ?_, step_of_decode_error hl hi⟩
  cases hd : decode s.cfg m with
  | ok i =>
    rw [step_of_decode_ok hl hi hd] at h
    exact absurd h (exec_ne_undecodable i _ e)
  | error d =>
    rw [step_of_decode_error hl hi hd] at h
    cases h
    rfl

/-- Settles O5: the step is refused when the decoder finds no operation, which is on the reserved codes alone. -/
theorem reservedCodesHaveNoStep : Obligations.ReservedCodesHaveNoStep := by
  intro s m rest hl hi
  rw [step_eq_undecodable_iff _ hl hi, decode_eq_reservedCode_iff, opOfCode_eq_none_iff]

end Sys2Proof.Machine
end

section
/-! The ones'-complement fold (40_checksum.md R131 to R133): the loop computes the closed form, and in a legal build it
ends within two rounds. -/

namespace Sys2Proof.Machine

theorem shiftRight_sixteen (s : Nat) : s >>> 16 = s / 0x10000 := Nat.shiftRight_eq_div_pow s 16

theorem foldOnce_eq (s : Nat) : foldOnce s = s / 0x10000 + s % 0x10000 := by
  rw [foldOnce, shiftRight_sixteen, show (0xFFFF : Nat) = 2 ^ 16 - 1 by norm_num, Nat.and_two_pow_sub_one_eq_mod]

theorem closedFold_le (s : Nat) : closedFold s ≤ 0xFFFF := by
  unfold closedFold
  split <;> omega

/-- The closed form leaves a value of 16 bits as it is. -/
theorem closedFold_of_lt {s : Nat} (h : s < 2 ^ 16) : closedFold s = s := by
  unfold closedFold
  split <;> omega

theorem closedFold_mod (s : Nat) : closedFold s % 0xFFFF = s % 0xFFFF := by
  unfold closedFold
  split <;> omega

theorem closedFold_eq_zero_iff (s : Nat) : closedFold s = 0 ↔ s = 0 := by
  unfold closedFold
  split <;> omega

theorem closedFold_eq_max_iff (s : Nat) : closedFold s = 0xFFFF ↔ 0 < s ∧ s % 0xFFFF = 0 := by
  unfold closedFold
  split <;> omega

/-- One round of the loop keeps the closed form (40_checksum.md R133). -/
theorem closedFold_foldOnce (s : Nat) : closedFold (foldOnce s) = closedFold s := by
  unfold closedFold
  rw [foldOnce_eq]
  split <;> split <;> omega

theorem closedFold_foldRounds (n s : Nat) : closedFold (foldRounds n s) = closedFold s := by
  induction n generalizing s with
  | zero => rfl
  | succ n ih =>
    unfold foldRounds
    split
    · rfl
    · rw [ih, closedFold_foldOnce]

/-- However many rounds were allowed, once they have ended the loop its value is the closed form. -/
theorem foldRounds_eq_closedFold {n s : Nat} (h : foldRounds n s < 2 ^ 16) : foldRounds n s = closedFold s := by
  rw [← closedFold_foldRounds n s, closedFold_of_lt h]

theorem foldCarries_eq_closedFold (s : Nat) : foldCarries s = closedFold s :=
  foldRounds_eq_closedFold (foldRounds_lt le_rfl)

/-- One fold of a sum of at most 130 words (40_checksum.md R132). -/
theorem foldOnce_le {s : Nat} (h : s ≤ 0x81FF7E) : foldOnce s ≤ 0x100FE := by
  rw [foldOnce_eq]
  omega

/-- A second fold, where the first left a carry (40_checksum.md R132). -/
theorem foldOnce_le_of_carry {s : Nat} (h : s ≤ 0x100FE) (hc : s >>> 16 ≠ 0) : foldOnce s ≤ 0xFF := by
  rw [shiftRight_sixteen] at hc
  rw [foldOnce_eq]
  omega

/-- Two rounds end the loop for every sum of at most 130 words (40_checksum.md R132). -/
theorem foldRounds_two_lt {s : Nat} (h : s ≤ 0x81FF7E) : foldRounds 2 s < 2 ^ 16 := by
  simp only [foldRounds]
  split
  case isTrue h0 => rw [shiftRight_sixteen] at h0; omega
  case isFalse =>
    split
    case isTrue h1 => rw [shiftRight_sixteen] at h1; omega
    case isFalse h1 => exact (foldOnce_le_of_carry (foldOnce_le h) h1).trans_lt (by norm_num)

/-- The folded value tells two sums apart that differ by one bit of one word. -/
theorem closedFold_ne_of_dist {s t m : Nat} (hm : m < 16) (h : Nat.dist s t = 2 ^ m) :
    closedFold s ≠ closedFold t := by
  intro he
  have hmod : s % 0xFFFF = t % 0xFFFF := by rw [← closedFold_mod s, he, closedFold_mod]
  have hpos : 0 < 2 ^ m := Nat.two_pow_pos m
  have hle : 2 ^ m ≤ 2 ^ 15 := Nat.pow_le_pow_right (by norm_num) (by omega)
  rw [Nat.dist] at h
  omega

end Sys2Proof.Machine
end

section
/-! The summed words and the stored field (40_checksum.md R130, 30_encoding.md R96): the bytes they are made of, their
bounds, and the checksum as the closed form of their sum. -/

namespace Sys2Proof.Machine

theorem le16_eq (f : Frame) (o : Nat) : le16 f o = (byteAt f o).toNat + 256 * (byteAt f (o + 1)).toNat := by
  simp [le16, memRead]

theorem le16_zero (f : Frame) : le16 f 0 = storedChecksum f := le16_eq f 0

theorem chkWords_eq_regionWords (c : Config) (f : Frame) : chkWords c f = regionWords c f :=
  List.map_congr_left fun k _ => le16_eq f (2 * (k + 1))

theorem chkRaw_eq_regionSum (c : Config) (f : Frame) : chkRaw c f = regionSum c f := by
  rw [chkRaw, chkWords_eq_regionWords, regionSum]

/-- CHK.SUM in closed form (40_checksum.md R133). -/
theorem toNat_chkSum (c : Config) (f : Frame) : (chkSum c f).toNat = 0xFFFF - closedFold (regionSum c f) := by
  have h := closedFold_le (regionSum c f)
  rw [chkSum, foldCarries_eq_closedFold, chkRaw_eq_regionSum, BitVec.toNat_not, BitVec.toNat_ofNat]
  omega

/-- CHK.VALIDATE in closed form (40_checksum.md R134). -/
theorem chkValidate_iff_stored (c : Config) (f : Frame) :
    chkValidate c f = true ↔ storedChecksum f = 0xFFFF - closedFold (regionSum c f) := by
  rw [chkValidate_iff, toNat_chkSum, le16_zero, eq_comm]

theorem le16_le (f : Frame) (o : Nat) : le16 f o ≤ 0xFFFF := Nat.le_of_lt_succ (memRead_lt f o 2)

theorem regionSum_eq_zero_iff (c : Config) (f : Frame) : regionSum c f = 0 ↔ ∀ w ∈ regionWords c f, w = 0 :=
  List.sum_eq_zero_iff_forall_eq_nat

theorem regionSum_eq_of_perm {c : Config} {f g : Frame} (h : (regionWords c g).Perm (regionWords c f)) :
    regionSum c g = regionSum c f := h.sum_nat

/-- A sum is at most `NWORDS * 0xFFFF` (40_checksum.md R132). -/
theorem chkRaw_le (c : Config) (f : Frame) : chkRaw c f ≤ c.nWords * 0xFFFF := by
  have h := List.sum_le_card_nsmul (chkWords c f) 0xFFFF fun w hw => by
    obtain ⟨k, -, rfl⟩ := List.mem_map.1 hw
    exact le16_le f _
  simpa [chkRaw, chkWords] using h

theorem nWords_le {c : Config} (hc : c.legal = true) : c.nWords ≤ 130 := by
  have := legal_bounds hc
  unfold Config.nWords
  omega

/-- `FRAME_SIZE` is even (00_scope.md R8). -/
theorem frameSize_even {c : Config} (hc : c.legal = true) : c.frameSize % 2 = 0 := by
  simp only [Config.legal, Bool.and_eq_true, beq_iff_eq] at hc
  omega

theorem byteAt_chkStamp (c : Config) (f : Frame) {k : Nat} (hk : 2 ≤ k) : byteAt (chkStamp c f) k = byteAt f k :=
  byteAt_memWrite_other _ _ (.inr (by omega))

theorem regionSum_chkStamp (c : Config) (f : Frame) : regionSum c (chkStamp c f) = regionSum c f := by
  simp only [← chkRaw_eq_regionSum, chkRaw, chkWords_chkStamp]

/-- The stamped field holds the checksum of the frame that was given (40_checksum.md R136). -/
theorem storedChecksum_chkStamp (c : Config) {f : Frame} (hf : 2 ≤ f.length) :
    storedChecksum (chkStamp c f) = 0xFFFF - closedFold (regionSum c f) := by
  rw [(chkValidate_iff_stored c _).1 (chkValidate_chkStamp c hf), regionSum_chkStamp]

end Sys2Proof.Machine
end

section
/-! What CHK's three operations answer on a whole frame. -/

namespace Sys2Proof.Machine

theorem whole_of_length {c : Config} {f : Frame} (h : f.length = c.frameSize) : f.whole c = true := beq_iff_eq.2 h

theorem exec_chkSum {s : State} {f : Frame} (hf : f.length = s.cfg.frameSize) :
    exec (.chkSum f) s = .next { s with outbox := [], result := some (.checksum (chkSum s.cfg f)) } :=
  withOperands_wf (whole_of_length hf)

theorem exec_chkValidate {s : State} {f : Frame} (hf : f.length = s.cfg.frameSize) :
    exec (.chkValidate f) s = .next { s with outbox := [], result := some (.verdict (chkValidate s.cfg f)) } :=
  withOperands_wf (whole_of_length hf)

theorem exec_chkStamp {s : State} {f : Frame} (hf : f.length = s.cfg.frameSize) :
    exec (.chkStamp f) s = .next { s with outbox := [], result := some (.frame (chkStamp s.cfg f)) } :=
  withOperands_wf (whole_of_length hf)

/-- CHK.VALIDATE says yes exactly when the frame validates. -/
theorem exec_chkValidate_eq_iff {s : State} {f : Frame} (hf : f.length = s.cfg.frameSize) (ok : Bool) :
    exec (.chkValidate f) s = .next { s with outbox := [], result := some (.verdict ok) } ↔
      chkValidate s.cfg f = ok := by
  simp [exec_chkValidate hf]

/-- A frame of a legal build holds its checksum field. -/
theorem two_le_length {c : Config} (hc : c.legal = true) {f : Frame} (hf : f.length = c.frameSize) : 2 ≤ f.length := by
  have := legal_bounds hc
  omega

/-- Settles O8: the fold loop computes the closed form of the sum, and the sum is 0 exactly when every word is. -/
theorem chkSumAnswersClosedForm : Obligations.ChkSumAnswersClosedForm := by
  intro s f hf
  have hv := toNat_chkSum s.cfg f
  have hle := closedFold_le (regionSum s.cfg f)
  refine ⟨chkSum s.cfg f, exec_chkSum hf, hv, ?_, ?_, fun g hg hp => ?_⟩
  · rw [← regionSum_eq_zero_iff, ← closedFold_eq_zero_iff, ← BitVec.toNat_inj, hv, BitVec.toNat_ofNat]
    omega
  · rw [← closedFold_eq_max_iff, ← BitVec.toNat_inj, hv, BitVec.toNat_ofNat]
    omega
  · have hs : chkSum s.cfg g = chkSum s.cfg f :=
      BitVec.eq_of_toNat_eq (by rw [toNat_chkSum, toNat_chkSum, regionSum_eq_of_perm hp])
    rw [exec_chkSum hf, exec_chkSum hg, hs]

/-- Settles O9: a legal build sums at most 130 words, and two folds of such a sum leave 16 bits. -/
theorem foldEndsWithinTwoRounds : Obligations.FoldEndsWithinTwoRounds := by
  intro c f hc
  have hn : c.nWords * 0xFFFF ≤ 0x81FF7E := Nat.mul_le_mul_right 0xFFFF (nWords_le hc)
  have hs : chkRaw c f ≤ 0x81FF7E := (chkRaw_le c f).trans hn
  have hlt := foldRounds_two_lt hs
  refine ⟨chkRaw_le c f, hn, by norm_num, foldOnce_le hs, foldOnce_le_of_carry (foldOnce_le hs), hlt, ?_,
    by decide, by decide⟩
  rw [foldCarries_eq_closedFold, foldRounds_eq_closedFold hlt]

/-- Settles O10: the verdict is the comparison with the closed form, read at its two extremes and at the zero frame. -/
theorem chkValidateIsExactComparison : Obligations.ChkValidateIsExactComparison := by
  intro s f hf
  have hv := chkValidate_iff_stored s.cfg f
  refine ⟨chkValidate s.cfg f, exec_chkValidate hf, hv, fun h0 => ?_, fun hpos hmod => ?_, fun hz => ?_⟩
  · rw [hv, (closedFold_eq_zero_iff _).2 h0]
  · rw [hv, (closedFold_eq_max_iff _).2 ⟨hpos, hmod⟩]
  · have hstored : storedChecksum f = 0 := by simp [storedChecksum, hz]
    have hsum : regionSum s.cfg f = 0 := by simp [regionSum, regionWords, hz]
    rw [← Bool.not_eq_true, hv, hstored, hsum, closedFold_of_lt (by norm_num)]
    norm_num

/-- Settles O11: the field is written with the checksum, which reads no byte of it. -/
theorem chkStampWritesTheChecksumField : Obligations.ChkStampWritesTheChecksumField := fun s f hc hf =>
  ⟨chkStamp s.cfg f, exec_chkStamp hf, length_chkStamp _ f, fun _ => byteAt_chkStamp _ f,
    storedChecksum_chkStamp _ (two_le_length hc hf)⟩

/-- Settles O12: the stamped frame is whole again and its field holds the checksum of its own words. -/
theorem stampedFrameValidates : Obligations.StampedFrameValidates := fun s f hc hf =>
  ⟨chkStamp s.cfg f, exec_chkStamp hf,
    (exec_chkValidate_eq_iff ((length_chkStamp _ f).trans hf) true).2 (chkValidate_chkStamp _ (two_le_length hc hf))⟩

end Sys2Proof.Machine
end

section
/-! One bit of a frame inverted (40_checksum.md R138): it changes the 16-bit word it stands in by a power of two below
`2^16`, and no other word. -/

namespace Sys2Proof.Machine

/-- The frame with bit `j` of byte `k` inverted. -/
def flipBit (f : Frame) (k j : Nat) : Frame := f.set k (byteAt f k ^^^ BitVec.ofNat 8 (2 ^ j))

@[simp] theorem length_flipBit (f : Frame) (k j : Nat) : (flipBit f k j).length = f.length := List.length_set

theorem byteAt_flipBit_other (f : Frame) {k i : Nat} (j : Nat) (h : i ≠ k) : byteAt (flipBit f k j) i = byteAt f i := by
  simp [flipBit, byteAt, List.getD_eq_getElem?_getD, List.getElem?_set_ne h.symm]

/-- Inverting bit `j` of a number changes it by `2^j`. -/
theorem dist_xor_two_pow (x j : Nat) : Nat.dist (x ^^^ 2 ^ j) x = 2 ^ j := by
  unfold Nat.dist
  induction j generalizing x with
  | zero =>
    rw [pow_zero]
    have hdiv : (x ^^^ 1) / 2 = x / 2 := by simp [Nat.xor_div_two]
    have hmod := Nat.xor_mod_two_eq (m := x) (n := 1)
    omega
  | succ j ih =>
    have hdiv : (x ^^^ 2 ^ (j + 1)) / 2 = x / 2 ^^^ 2 ^ j := by simp [Nat.xor_div_two, pow_succ]
    have hmod := Nat.xor_mod_two_eq (m := x) (n := 2 ^ (j + 1))
    have := ih (x / 2)
    omega

theorem byteAt_flipBit_same {f : Frame} {k j : Nat} (hk : k < f.length) (hj : j < 8) :
    Nat.dist (byteAt (flipBit f k j) k).toNat (byteAt f k).toNat = 2 ^ j := by
  have hb : byteAt (flipBit f k j) k = byteAt f k ^^^ BitVec.ofNat 8 (2 ^ j) := by
    simp [flipBit, byteAt, List.getD_eq_getElem?_getD, hk]
  have hlt : 2 ^ j < 2 ^ 8 := Nat.pow_lt_pow_right (by norm_num) hj
  rw [hb, BitVec.toNat_xor, BitVec.toNat_ofNat, Nat.mod_eq_of_lt hlt, dist_xor_two_pow]

theorem le16_flipBit_other (f : Frame) {k i : Nat} (j : Nat) (h : i ≠ k / 2) :
    le16 (flipBit f k j) (2 * i) = le16 f (2 * i) :=
  memRead_congr fun _ _ _ => byteAt_flipBit_other f j (by omega)

/-- Inverting bit `j` of byte `k` changes its word by `2^j` in the low byte and by `2^(8+j)` in the high byte. -/
theorem le16_flipBit_same {f : Frame} {k j : Nat} (hk : k < f.length) (hj : j < 8) :
    Nat.dist (le16 (flipBit f k j) (2 * (k / 2))) (le16 f (2 * (k / 2))) = 2 ^ (8 * (k % 2) + j) := by
  have hs := byteAt_flipBit_same hk hj
  simp only [le16_eq, Nat.dist] at hs ⊢
  obtain he | ho := Nat.mod_two_eq_zero_or_one k
  · have hl : 2 * (k / 2) = k := by omega
    rw [hl, byteAt_flipBit_other f j (by omega : k + 1 ≠ k), he, Nat.mul_zero, Nat.zero_add]
    omega
  · have hl : 2 * (k / 2) + 1 = k := by omega
    rw [hl, byteAt_flipBit_other f j (by omega : 2 * (k / 2) ≠ k), ho, pow_add]
    omega

/-- Sums of two functions that differ at one place differ by as much. -/
theorem dist_sum_map_range {n i : Nat} {u v : Nat → Nat} (hi : i < n) (h : ∀ k, k ≠ i → u k = v k) :
    Nat.dist ((List.range n).map u).sum ((List.range n).map v).sum = Nat.dist (u i) (v i) := by
  have hmem : i ∈ List.range n := List.mem_range.2 hi
  have hrest : ((List.range n).erase i).map u = ((List.range n).erase i).map v :=
    List.map_congr_left fun k hk => h k (List.nodup_range.mem_erase_iff.1 hk).1
  rw [← List.sum_map_erase u hmem, ← List.sum_map_erase v hmem, hrest, Nat.dist_add_add_right]

/-- A bit of the stored field inverted leaves every summed word. -/
theorem regionSum_flipBit_field (c : Config) (f : Frame) {k : Nat} (j : Nat) (hk : k < 2) :
    regionSum c (flipBit f k j) = regionSum c f := by
  have hw := chkWords_congr c fun i (hi : 2 ≤ i) => byteAt_flipBit_other f (i := i) (k := k) j (by omega)
  rw [← chkRaw_eq_regionSum, chkRaw, hw, ← chkRaw, chkRaw_eq_regionSum]

/-- A bit of the summed region inverted changes the sum by as much as the word it stands in. -/
theorem regionSum_flipBit_word {c : Config} (hc : c.legal = true) {f : Frame} (hf : f.length = c.frameSize) {k j : Nat}
    (h2 : 2 ≤ k) (hk : k < c.frameSize) (hj : j < 8) :
    Nat.dist (regionSum c (flipBit f k j)) (regionSum c f) = 2 ^ (8 * (k % 2) + j) := by
  have heven := frameSize_even hc
  have hi : k / 2 - 1 < c.nWords := by unfold Config.nWords; omega
  have hword : k / 2 - 1 + 1 = k / 2 := by omega
  rw [← le16_flipBit_same (by omega : k < f.length) hj, ← chkRaw_eq_regionSum, ← chkRaw_eq_regionSum, ← hword]
  exact dist_sum_map_range hi fun i hne => le16_flipBit_other f j (by omega)

/-- A frame that validates does not after one bit of it is inverted: of the field and the folded sum exactly one
changes. -/
theorem chkValidate_flipBit {c : Config} (hc : c.legal = true) {f : Frame} (hf : f.length = c.frameSize) {k j : Nat}
    (hk : k < c.frameSize) (hj : j < 8) (hv : chkValidate c f = true) : chkValidate c (flipBit f k j) = false := by
  rw [chkValidate_iff_stored] at hv
  rw [← Bool.not_eq_true, chkValidate_iff_stored]
  intro hv'
  rcases Nat.lt_or_ge k 2 with hfield | hregion
  · have hd := le16_flipBit_same (by omega : k < f.length) hj
    rw [show 2 * (k / 2) = 0 by omega, le16_zero, le16_zero, hv', hv, regionSum_flipBit_field c f j hfield,
      Nat.dist_self] at hd
    exact (Nat.two_pow_pos _).ne hd
  · have hstored : storedChecksum (flipBit f k j) = storedChecksum f := le16_flipBit_other f j (i := 0) (by omega)
    have hne := closedFold_ne_of_dist (by omega) (regionSum_flipBit_word hc hf hregion hk hj)
    have hle := closedFold_le (regionSum c f)
    have hle' := closedFold_le (regionSum c (flipBit f k j))
    omega

/-- Settles O13: the changed word moves either the stored field or the folded sum. -/
theorem singleBitChangeIsDetected : Obligations.SingleBitChangeIsDetected := by
  intro s f k j hc hf hk hj hv
  rw [exec_chkValidate_eq_iff hf] at hv
  exact (exec_chkValidate_eq_iff ((length_flipBit f k j).trans hf) false).2 (chkValidate_flipBit hc hf hk hj hv)

end Sys2Proof.Machine
end

section
/-! Single bytes of little-endian values and of the end of a buffer (00_scope.md R18). -/

namespace Sys2Proof

/-- Byte `k` of a value's little-endian bytes is `v[8k+7:8k]` (00_scope.md R18). -/
theorem byteAt_leBytes {n k : Nat} (v : Nat) (hk : k < n) :
    byteAt (leBytes n v) k = BitVec.ofNat 8 (v / 2 ^ (8 * k)) := by
  induction n generalizing k v with
  | zero => omega
  | succ n ih =>
    cases k with
    | zero => simp [leBytes, byteAt]
    | succ k =>
      have htail : byteAt (leBytes (n + 1) v) (k + 1) = byteAt (leBytes n (v / 2 ^ 8)) k := rfl
      rw [htail, ih _ (by omega), Nat.div_div_eq_div_mul, ← pow_add, Nat.mul_succ, Nat.add_comm 8]

theorem byteAt_drop (buf : List Byte) (n k : Nat) : byteAt (buf.drop n) k = byteAt buf (n + k) := by
  simp [byteAt, List.getD_eq_getElem?_getD]

theorem byteAt_replicate {n k : Nat} (b : Byte) (hk : k < n) : byteAt (List.replicate n b) k = b :=
  List.getD_replicate _ hk

/-- `LE32` spelled out in its four bytes (30_encoding.md R96). -/
theorem toNat_le32 (buf : List Byte) (off : Nat) :
    (le32 buf off).toNat = (byteAt buf off).toNat + 2 ^ 8 * (byteAt buf (off + 1)).toNat +
      2 ^ 16 * (byteAt buf (off + 2)).toNat + 2 ^ 24 * (byteAt buf (off + 3)).toNat := by
  rw [le32, BitVec.toNat_ofNat, Nat.mod_eq_of_lt (memRead_lt buf off 4)]
  simp only [memRead, Nat.add_assoc, Nat.reduceAdd]
  omega

end Sys2Proof
end

section
/-! What FRM's operations answer: the bytes of a built acknowledgment, and the fields read from a frame. -/

namespace Sys2Proof.Machine

theorem exec_frmAck (ack : Word) (s : State) :
    exec (.frmAck ack) s = .next { s with outbox := [], result := some (.frame (frmAck s.cfg ack)) } := rfl

/-- On operands that meet the preconditions of 41_framer.md R151, FRM.DATA frames the payload as it is. -/
theorem exec_frmData_of_fits {s : State} {plen : Byte} {payload : List Byte} (seq : Word)
    (h : plen.toNat ≤ s.cfg.maxPayload) (hp : payload.length = plen.toNat) :
    exec (.frmData seq plen payload) s =
      .next { s with outbox := [], result := some (.frame (frmData s.cfg seq plen payload)) } := by
  conv_rhs => rw [← copiedPayload_of_fits seq h hp]
  rfl

theorem exec_frmParse {s : State} {f : Frame} (hf : f.length = s.cfg.frameSize) :
    exec (.frmParse f) s = .next { s with outbox := [], result := some (.fields (frmParse f)) } :=
  withOperands_wf (whole_of_length hf)

/-- Offsets 2 to 5 of an ACK frame hold the acknowledgment number (41_framer.md R153). -/
theorem byteAt_frmAck_ack (c : Config) (ack : Word) {k : Nat} (hk : k < 4) :
    byteAt (frmAck c ack) (2 + k) = BitVec.ofNat 8 (ack.toNat / 2 ^ (8 * k)) := by
  rw [frmAck, byteAt_chkStamp c _ (by omega), byteAt_append_left (by simp; omega), byteAt_append_right (by simp)]
  simp only [List.length_cons, List.length_nil, Nat.add_sub_cancel_left]
  exact byteAt_leBytes _ hk

/-- From offset 6 on an ACK frame holds `PAD` (41_framer.md R153). -/
theorem byteAt_frmAck_pad (c : Config) (ack : Word) {k : Nat} (h6 : 6 ≤ k) (hk : k < c.frameSize) :
    byteAt (frmAck c ack) k = c.pad := by
  rw [frmAck, byteAt_chkStamp c _ (by omega), byteAt_append_right (by simp; omega)]
  exact byteAt_replicate _ (by simp; omega)

theorem chkValidate_frmAck (c : Config) (ack : Word) : chkValidate c (frmAck c ack) = true :=
  chkValidate_chkStamp c (by simp)

/-- FRM.PARSE reads back the number FRM.ACK was given (41_framer.md R156). -/
theorem frmParse_frmAck_seq (c : Config) (ack : Word) : (frmParse (frmAck c ack)).seq = ack := by
  rw [frmAck, (frmParse_chkStamp c _).1]
  exact le32_put32 [0, 0] _ ack

/-- Of a frame that validates, FRM.PARSE reads the checksum CHK.SUM computes. -/
theorem frmParse_chk_of_valid {c : Config} {f : Frame} (h : chkValidate c f = true) :
    (frmParse f).chk = chkSum c f := by
  have hfield : memRead f 0 2 = (chkSum c f).toNat := ((chkValidate_iff c f).1 h).symm
  simp [frmParse, hfield]

/-- Build then parse, for a data frame (41_framer.md R156): the payload comes back with its padding. -/
theorem frmParse_frmData (c : Config) (seq : Word) (plen : Byte) (payload : List Byte) :
    frmParse (frmData c seq plen payload) = ⟨chkSum c (frmData c seq plen payload), seq, plen,
      payload ++ List.replicate (c.maxPayload - payload.length) c.pad⟩ := by
  have hchk := frmParse_chk_of_valid (chkValidate_frmData c seq plen payload)
  have hseq := frmParse_frmData_seq c seq plen payload
  obtain ⟨-, hplen, hpayload⟩ := frmParse_chkStamp c
    ([0, 0] ++ put32 seq ++ [plen] ++ payload ++ List.replicate (c.maxPayload - payload.length) c.pad)
  exact (Fields.mk.injEq ..).mpr ⟨hchk, hseq, hplen, hpayload⟩

/-- Settles O16: the layout byte by byte, under a stamp that writes the checksum field alone. -/
theorem frmAckBuildsTheLayout : Obligations.FrmAckBuildsTheLayout := fun s ack hc =>
  have h6 : 6 ≤ s.cfg.frameSize := le_trans (by norm_num) (legal_bounds hc).1
  ⟨frmAck s.cfg ack, exec_frmAck ack s, length_frmAck _ ack h6, fun _ => byteAt_frmAck_ack _ ack,
    fun _ => byteAt_frmAck_pad _ ack, (chkValidate_iff_stored _ _).1 (chkValidate_frmAck _ ack)⟩

/-- Settles O17: each field is a read of its own bytes, whatever they hold. -/
theorem frmParseReadsTheFields : Obligations.FrmParseReadsTheFields := by
  intro s f hf
  have hbyte : ∀ k, byteAt (frmParse f).payload k = byteAt f (7 + k) := byteAt_drop f 7
  refine ⟨frmParse f, exec_frmParse hf, ?_, toNat_le32 f 2, rfl, ?_, hbyte, ?_⟩
  · exact (BitVec.toNat_ofNat _ _).trans ((Nat.mod_eq_of_lt (memRead_lt f 0 2)).trans (le16_eq f 0))
  · simp [frmParse, Config.maxPayload, hf]
  · rw [toNat_le32]
    simp only [hbyte]

/-- Settles O18: FRM.PARSE of a stamped frame reads the checksum of its words and the layout under the stamp. -/
theorem parseOfBuiltFrame : Obligations.ParseOfBuiltFrame := by
  intro s hc
  have h12 := (legal_bounds hc).1
  refine ⟨fun seq plen payload hle hlen => ?_, fun ack => ?_⟩
  · have hg := length_frmData s.cfg seq plen payload (by omega) (by omega)
    refine ⟨frmData s.cfg seq plen payload, _, exec_frmData_of_fits seq hle hlen, exec_chkSum hg, ?_⟩
    rw [exec_frmParse hg, frmParse_frmData, hlen]
  · have hg := length_frmAck s.cfg ack (by omega)
    exact ⟨_, _, exec_frmAck ack s, exec_frmParse hg, frmParse_frmAck_seq _ ack⟩

end Sys2Proof.Machine
end

section
/-! SND.TIMEOUT and SND.FINAL (42_sender.md R174, R175), and what TRANSMIT sends: the frames that stand in the window
under the numbers it passes. -/

namespace Sys2Proof.Machine

/-- TRANSMIT emits the stored frames from `next_to_transmit` up to `next_seq` (42_sender.md R177). -/
theorem Snd.map_pendingFrames (c : Config) (u : Snd) :
    (u.pendingFrames c).map .sendFrame = sends c u u.nextToTransmit u.nextSeq := by
  rw [Snd.pendingFrames, sends, List.map_map]
  refine List.map_congr_left fun k hk => ?_
  have hlt : u.nextToTransmit.toNat + k < 2 ^ 32 := by
    have := u.nextSeq.isLt
    have := List.mem_range.1 hk
    omega
  simp only [Function.comp_apply, Snd.winAt, slotOf, BitVec.toNat_ofNat, Nat.mod_eq_of_lt hlt]

/-- The `k`-th item sent is the frame that stands in the slot of number `a + k`. -/
theorem sends_getElem? (c : Config) (u : Snd) {a b : Word} {k : Nat} (hk : k < b.toNat - a.toNat) :
    (sends c u a b)[k]? =
      some (.sendFrame (Store.read (blankFrame c) u.win ((a.toNat + k) % c.window))) := by
  rw [sends, List.getElem?_map, List.getElem?_range hk, Option.map_some]

/-- The slot of an outstanding number holds a valid frame of that number (10_state.md R30 (g)). -/
theorem Snd.WindowInv.frame_numbered {c : Config} {ackExpected nextSeq : Word} {n j : Nat} {win : Store Frame}
    (h : Snd.WindowInv c ackExpected nextSeq n win) (hge : ackExpected.toNat ≤ j) (hlt : j < nextSeq.toNat) :
    chkValidate c (Store.read (blankFrame c) win (j % c.window)) = true ∧
      (le32 (Store.read (blankFrame c) win (j % c.window)) 2).toNat = j := by
  have hj : (BitVec.ofNat 32 j).toNat = j := by
    rw [BitVec.toNat_ofNat, Nat.mod_eq_of_lt (hlt.trans nextSeq.isLt)]
  obtain ⟨-, hseq, hvalid⟩ := h.stored (BitVec.ofNat 32 j) (by rwa [hj]) (by rwa [hj])
  rw [slotOf, hj] at hseq hvalid
  exact ⟨hvalid, (congrArg BitVec.toNat hseq).trans hj⟩

theorem exec_sndTimeout_of_running {s : State} (hm : s.snd.mode = .ready) (hrun : s.snd.tmrRun = true) :
    exec .sndTimeout s = .next (s.endSnd (s.snd.onTimeout s.cfg)) := by
  show execSndTimeout s = _
  simp [execSndTimeout, hm, hrun]

/-- In READY, SND.TIMEOUT is enabled only while the timer runs (60_exceptions.md R270). -/
theorem exec_sndTimeout_of_stopped {s : State} (hm : s.snd.mode = .ready) (hrun : s.snd.tmrRun = false) :
    exec .sndTimeout s = .refused .timeoutNotEnabled := by
  show execSndTimeout s = _
  simp [execSndTimeout, hm, hrun]

theorem exec_sndTimeout_of_halted {s : State} (hm : s.snd.mode = .halted) :
    exec .sndTimeout s = .refused .timeoutNotEnabled := by
  show execSndTimeout s = _
  simp [execSndTimeout, hm]

theorem exec_sndTimeout_of_off {s : State} (hm : s.snd.mode = .off) : exec .sndTimeout s = .refused .unitOff := by
  show execSndTimeout s = _
  simp [execSndTimeout, hm]

/-- With the timer running SND.TIMEOUT moves `next_to_transmit` alone, which ends at `next_seq`, and the whole window
is sent after the timer is started again (42_sender.md R174). -/
theorem Snd.onTimeout_of_running (c : Config) {u : Snd} (hrun : u.tmrRun = true) :
    u.onTimeout c = ⟨{ u with nextToTransmit := u.nextSeq },
      .startTimer c.timeout :: sends c u u.ackExpected u.nextSeq, none⟩ := by
  rw [Snd.onTimeout_eq, Snd.map_pendingFrames, ← hrun]
  rfl

/-- Settles O27: a timeout is TRANSMIT from `ack_expected`; R30 (f) says that a frame is outstanding and R30 (g) that
each slot sent holds the frame of its number. -/
theorem timeoutResendsTheWindow : Obligations.TimeoutResendsTheWindow := by
  refine fun s => ⟨fun hm hrun => ?_, fun hs hm hrun => ?_, exec_sndTimeout_of_stopped, exec_sndTimeout_of_halted,
    exec_sndTimeout_of_off⟩
  · rw [exec_sndTimeout_of_running hm hrun, Snd.onTimeout_of_running s.cfg hrun]
    rfl
  · have hinv := hs.snd hm
    have hpos := hinv.timer.1 hrun
    rw [hinv.counted] at hpos
    refine ⟨Nat.lt_of_sub_pos hpos, fun k hk => ⟨_, sends_getElem? s.cfg s.snd hk, ?_⟩⟩
    exact (hinv.fillInv hs.sndStores).window.frame_numbered (Nat.le_add_right _ _) (by omega)

/-- SND.FINAL stops the timer, empties the queue and turns the unit OFF, in READY and in HALTED (42_sender.md R175). -/
theorem exec_sndFinal_of_ne_off {s : State} (hm : s.snd.mode ≠ .off) :
    exec .sndFinal s = .next (enterOff .snd
      ({ s with snd := s.snd.final s.cfg s.sndFree, sndFree := s.sndFree + sndStride }.settle
        s.snd.stopIfRunning)) := by
  show execSndFinal s = _
  unfold execSndFinal
  cases h : s.snd.mode with
  | off => exact absurd h hm
  | ready | halted => rfl

theorem exec_sndFinal_of_off {s : State} (hm : s.snd.mode = .off) : exec .sndFinal s = .refused .unitOff := by
  show execSndFinal s = _
  simp [execSndFinal, hm]

/-- Settles O28: each register named is one FINAL writes or keeps. -/
theorem sndFinalTurnsTheSenderOff : Obligations.SndFinalTurnsTheSenderOff := fun _ =>
  ⟨fun hm => ⟨_, exec_sndFinal_of_ne_off hm, rfl, rfl, rfl, rfl, rfl, rfl, rfl, rfl, rfl⟩, exec_sndFinal_of_off⟩

end Sys2Proof.Machine
end

section
/-! The window bound and monotonicity of the sender (42_sender.md R179): what WINDOW_FILL and TRANSMIT emit stays below
`ack_expected + W`, and so does what each event of a READY sender emits, a `raise` included. -/

namespace Sys2Proof.Machine

/-- R179 of a procedure that started with `ack_expected = a`. -/
structure Snd.StaysInWindow (c : Config) (a : Word) (p : Progress Snd) : Prop where
  bounded : p.unit.nbuffered ≤ c.window
  monotone : a.toNat ≤ p.unit.ackExpected.toNat
  emitted : ∀ f, Action.sendFrame f ∈ p.out → (le32 f 2).toNat < p.unit.ackExpected.toNat + c.window

/-- A procedure that sends no frame and leaves both counters keeps inside the window. -/
theorem Snd.Inv.staysInWindow {c : Config} {u : Snd} (h : u.Inv c) {p : Progress Snd}
    (hn : p.unit.nbuffered = u.nbuffered) (ha : p.unit.ackExpected = u.ackExpected) (hout : p.out = []) :
    Snd.StaysInWindow c u.ackExpected p :=
  ⟨hn ▸ h.bounded, ha ▸ Nat.le_refl _, fun f hf => by rw [hout] at hf; cases hf⟩

/-- What a procedure goes on with after WINDOW_FILL writes neither counter and sends no frame of its own; what it did
before only moved `ack_expected` up. -/
theorem Snd.StaysInWindow.extend {c : Config} {a b : Word} {p p' : Progress Snd} (h : Snd.StaysInWindow c a p)
    (hba : b.toNat ≤ a.toNat) (hn : p'.unit.nbuffered = p.unit.nbuffered)
    (ha : p'.unit.ackExpected = p.unit.ackExpected)
    (hout : ∀ f, Action.sendFrame f ∈ p'.out → Action.sendFrame f ∈ p.out) : Snd.StaysInWindow c b p' :=
  ⟨hn ▸ h.bounded, ha ▸ hba.trans h.monotone, fun f hf => ha ▸ h.emitted f (hout f hf)⟩

/-- A stored frame that is sent has an outstanding number, and at most `W` are outstanding. -/
theorem Snd.WindowInv.lt_of_mem_sends {c : Config} {u : Snd} {a : Word} {f : Frame}
    (h : Snd.WindowInv c u.ackExpected u.nextSeq u.nbuffered u.win) (ha : u.ackExpected.toNat ≤ a.toNat)
    (hf : Action.sendFrame f ∈ sends c u a u.nextSeq) : (le32 f 2).toNat < u.ackExpected.toNat + c.window := by
  obtain ⟨k, hk, he⟩ := List.mem_map.1 hf
  cases he
  have hk := List.mem_range.1 hk
  rw [(h.frame_numbered (j := a.toNat + k) (by omega) (by omega)).2]
  obtain ⟨hcounted, hbounded, -, -⟩ := h
  omega

/-- WINDOW_FILL stays inside the window: its loop keeps R30, and TRANSMIT sends stored frames (42_sender.md R176). -/
theorem Snd.FillInv.windowFill_staysInWindow {c : Config} (hc : c.legal = true) {u : Snd} (h : u.FillInv c)
    (htransmitted : u.ackExpected.toNat ≤ u.nextToTransmit.toNat) :
    Snd.StaysInWindow c u.ackExpected (u.windowFill c) := by
  have hloop := (h.fillLoop hc c.window).window
  obtain ⟨hsame, hnext⟩ := u.fillLoop_sameOutside c c.window
  have ha := hsame.ackExpected
  rcases u.windowFill_cases c with ⟨-, e⟩ | ⟨-, -, e⟩ <;> rw [e]
  · refine ⟨hloop.bounded, (congrArg BitVec.toNat ha).ge, fun f hf => ?_⟩
    rw [Snd.map_pendingFrames] at hf
    exact hloop.lt_of_mem_sends (by rwa [ha, hnext]) hf
  · exact ⟨hloop.bounded, (congrArg BitVec.toNat ha).ge, nofun⟩

theorem Snd.onMessage_staysInWindow {c : Config} (hc : c.legal = true) {u : Snd} (hst : u.StoreInv c) (h : u.Inv c)
    {len : Word} {data : List Byte} (hdata : data.length = len.toNat) :
    Snd.StaysInWindow c u.ackExpected (u.onMessage c len data) := by
  have hfill := h.fillInv hst
  rcases u.onMessage_cases c len data with ⟨-, e⟩ | ⟨-, -, e⟩ | ⟨-, -, -, e⟩ | ⟨hlen, hfull, -, e⟩ <;> rw [e]
  · exact h.staysInWindow rfl rfl rfl
  · exact h.staysInWindow rfl rfl rfl
  · exact h.staysInWindow rfl rfl rfl
  · have hv : ({ u with
        q := u.q ++ [⟨u.msgNext, len, data⟩], msgNext := u.msgNext + 1, tmrRun := true } : Snd).FillInv c :=
      ⟨hst.congr rfl, hfill.queue.append hc hfull hdata hlen, hfill.window⟩
    exact (hv.windowFill_staysInWindow hc (h.transmitted ▸ h.ordered)).extend le_rfl rfl rfl (by simp)

theorem Snd.acceptAck_staysInWindow {c : Config} (hc : c.legal = true) {u : Snd} (hst : u.StoreInv c) (h : u.Inv c)
    {ack : Word} (hin : u.ackInRange ack = true) : Snd.StaysInWindow c u.ackExpected (u.acceptAck c ack) := by
  obtain ⟨hge, hlt⟩ := (u.ackInRange_iff ack).1 hin
  have hfill := h.fillInv hst
  have hrelease := hfill.window.release hge hlt
  have hsucc : (ack + 1).toNat = ack.toNat + 1 := by bv_omega
  have hv : ({ u with
      tmrRun := true
      nbuffered := u.nbuffered - (ack.toNat - u.ackExpected.toNat + 1)
      ackExpected := ack + 1 } : Snd).FillInv c := ⟨hst.congr rfl, hfill.queue, hrelease⟩
  have hstays := hv.windowFill_staysInWindow hc (h.transmitted ▸ hrelease.ordered)
  have hup : u.ackExpected.toNat ≤ (ack + 1).toNat := by omega
  rcases u.acceptAck_cases c ack with ⟨r, -, e⟩ | ⟨-, -, e⟩ | ⟨-, -, e⟩ <;> rw [e] <;>
    exact hstays.extend hup rfl rfl (by simp)

theorem Snd.onAck_staysInWindow {c : Config} (hc : c.legal = true) {u : Snd} (hst : u.StoreInv c) (h : u.Inv c)
    (f : Frame) : Snd.StaysInWindow c u.ackExpected (u.onAck c f) := by
  unfold Snd.onAck
  rcases u.ackCondition_cases c f with ⟨-, e⟩ | ⟨-, -, e⟩ | ⟨-, hin, e⟩ <;> rw [e]
  · exact h.staysInWindow rfl rfl rfl
  · exact h.staysInWindow rfl rfl rfl
  · exact acceptAck_staysInWindow hc hst h hin

theorem Snd.onTimeout_staysInWindow {c : Config} {u : Snd} (hst : u.StoreInv c) (h : u.Inv c)
    (hrun : u.tmrRun = true) : Snd.StaysInWindow c u.ackExpected (u.onTimeout c) := by
  rw [Snd.onTimeout_of_running c hrun]
  refine ⟨h.bounded, le_rfl, fun f hf => ?_⟩
  exact (h.fillInv hst).window.lt_of_mem_sends le_rfl (by simpa using hf)

theorem Snd.Runs.staysInWindow {c : Config} (hc : c.legal = true) {u : Snd} {i : Instr} {p : Progress Snd}
    (hrun : u.Runs c i p) (hst : u.StoreInv c) (h : u.Inv c) : Snd.StaysInWindow c u.ackExpected p := by
  cases hrun with
  | message hdata => exact Snd.onMessage_staysInWindow hc hst h hdata
  | ack _ => exact Snd.onAck_staysInWindow hc hst h _
  | timeout hrun => exact Snd.onTimeout_staysInWindow hst h hrun

/-! Fault entry writes neither counter and sends no frame (60_exceptions.md R262). -/

theorem State.endSnd_nbuffered (s : State) (p : Progress Snd) : (s.endSnd p).snd.nbuffered = p.unit.nbuffered := by
  rw [State.endSnd_snd]
  cases p.raised <;> rfl

theorem State.endSnd_ackExpected (s : State) (p : Progress Snd) :
    (s.endSnd p).snd.ackExpected = p.unit.ackExpected := by
  rw [State.endSnd_snd]
  cases p.raised <;> rfl

theorem State.sendFrame_mem_endSnd (s : State) (p : Progress Snd) (f : Frame) :
    Action.sendFrame f ∈ (s.endSnd p).outbox ↔ Action.sendFrame f ∈ p.out := by
  simp [State.endSnd_outbox]

/-- Settles O30: a READY sender that is neither initialised nor finalised runs one of its three events, and each stays
inside the window. -/
theorem senderStaysInsideItsWindow : Obligations.SenderStaysInsideItsWindow := by
  intro i s t hs hready hi hinit hfinal h
  rcases exec_snd_cases hi h with ⟨he, -⟩ | ⟨hhalted, -⟩ | ⟨-, p, hrun, rfl⟩ | ⟨he, -⟩
  · exact absurd he hinit
  · rw [hready] at hhalted
    cases hhalted
  · obtain ⟨hbounded, hmonotone, hemitted⟩ := hrun.staysInWindow hs.legal hs.sndStores (hs.snd hready)
    rw [State.endSnd_nbuffered, State.endSnd_ackExpected]
    exact ⟨hbounded, hmonotone, fun f hf => hemitted f ((s.sendFrame_mem_endSnd p f).1 hf)⟩
  · exact absurd he hfinal

end Sys2Proof.Machine
end

section
/-! What RCV.FRAME sends and what RCV.FINAL leaves (43_receiver.md R212, R213, R216): DRAIN itself only delivers, and
the one acknowledgment of an operation is built from the `expected` the operation ends with. -/

namespace Sys2Proof.Machine

/-- DRAIN emits deliveries alone (43_receiver.md R214). -/
theorem Rcv.mem_drain_out {c : Config} {k : Nat} {r : Rcv} {a : Action} (h : a ∈ (Rcv.drain c k r).out) :
    ∃ len data, a = .deliverMessage len data := by
  induction k generalizing r with
  | zero => cases h
  | succ k ih =>
    rcases r.drain_step c k with ⟨-, e⟩ | ⟨-, -, e⟩ | ⟨-, -, -, e⟩ <;> rw [e] at h
    · cases h
    · cases h
    · rcases List.mem_append.1 h with hcons | hrest
      · rcases (r.setOcc c r.expected false).consume_out c (r.rwinAt c r.expected) with hout | ⟨len, data, hout⟩ <;>
          rw [hout] at hcons
        · cases hcons
        · exact ⟨len, data, List.mem_singleton.1 hcons⟩
      · exact ih hrest

/-- RCV.FRAME on an in-window frame: buffered, or drained up to a malformed frame, or drained and acknowledged
(43_receiver.md R212). -/
theorem Rcv.acceptFrame_cases (c : Config) (r : Rcv) (seq : Word) (f : Frame) :
    let r' := r.store c seq f
    let p := r'.drain c c.window
    (seq ≠ r.expected ∧ r.acceptFrame c seq f = ⟨r', if c.ackOnBuffer then [r'.ack c] else [], none⟩) ∨
    (seq = r.expected ∧ (∃ x, p.raised = some x) ∧ r.acceptFrame c seq f = p) ∨
    (seq = r.expected ∧ p.raised = none ∧
      r.acceptFrame c seq f = { p with out := p.out ++ [p.unit.ack c] }) := by
  intro r' p
  unfold Rcv.acceptFrame
  by_cases hseq : seq = r.expected
  · cases hp : p.raised with
    | some x => exact .inr (.inl ⟨hseq, ⟨x, rfl⟩, by simp only [if_pos hseq, r', p, hp]⟩)
    | none => exact .inr (.inr ⟨hseq, rfl, by simp only [if_pos hseq, r', p, hp]⟩)
  · exact .inl ⟨hseq, if_neg hseq⟩

/-- R216 of a procedure of RCV: what it sends is the acknowledgment for the `expected` it leaves. -/
def Rcv.AcksLastConsumed (c : Config) (p : Progress Rcv) : Prop :=
  ∀ g, Action.sendFrame g ∈ p.out → g = frmAck c (p.unit.expected - 1)

/-- The acknowledgment names the `expected` of the receiver it is built from. -/
theorem Rcv.eq_of_sendFrame_mem_ack {c : Config} {r : Rcv} {g : Frame} (h : Action.sendFrame g ∈ [r.ack c]) :
    g = frmAck c (r.expected - 1) :=
  Action.sendFrame.inj (List.mem_singleton.1 h)

/-- DRAIN sends no frame. -/
theorem Rcv.sendFrame_notMem_drain {c : Config} {k : Nat} {r : Rcv} (g : Frame) :
    Action.sendFrame g ∉ (Rcv.drain c k r).out := fun h => by
  obtain ⟨len, data, he⟩ := Rcv.mem_drain_out h
  cases he

theorem Rcv.acceptFrame_acksLastConsumed (c : Config) (r : Rcv) (seq : Word) (f : Frame) :
    Rcv.AcksLastConsumed c (r.acceptFrame c seq f) := by
  intro g hg
  rcases r.acceptFrame_cases c seq f with ⟨-, e⟩ | ⟨-, -, e⟩ | ⟨-, -, e⟩ <;> rw [e] at hg ⊢
  · cases hack : c.ackOnBuffer with
    | true => exact Rcv.eq_of_sendFrame_mem_ack (by simpa [hack] using hg)
    | false => simp [hack] at hg
  · exact absurd hg (Rcv.sendFrame_notMem_drain g)
  · rcases List.mem_append.1 hg with hdrain | hack
    · exact absurd hdrain (Rcv.sendFrame_notMem_drain g)
    · exact Rcv.eq_of_sendFrame_mem_ack hack

theorem Rcv.onFrame_acksLastConsumed (c : Config) (r : Rcv) (f : Frame) :
    Rcv.AcksLastConsumed c (r.onFrame c f) := by
  unfold Rcv.onFrame
  rcases r.frameCondition_cases c f with ⟨-, e⟩ | ⟨-, -, e⟩ | ⟨-, -, e⟩ <;> rw [e]
  · exact fun g hg => by cases hg
  · exact fun g hg => Rcv.eq_of_sendFrame_mem_ack hg
  · exact r.acceptFrame_acksLastConsumed c _ f

/-! Fault entry keeps `expected` and sends no frame (60_exceptions.md R262). -/

theorem State.endRcv_expected (s : State) (p : Progress Rcv) : (s.endRcv p).rcv.expected = p.unit.expected := by
  rw [State.endRcv_rcv]
  cases p.raised <;> rfl

theorem State.sendFrame_mem_endRcv (s : State) (p : Progress Rcv) (g : Frame) :
    Action.sendFrame g ∈ (s.endRcv p).outbox ↔ Action.sendFrame g ∈ p.out := by
  simp [State.endRcv_outbox]

/-- Every frame RCV.FRAME emits is the acknowledgment of the last frame consumed (43_receiver.md R216). -/
theorem exec_rcvFrame_sent {s t : State} {f g : Frame} (h : exec (.rcvFrame f) s = .next t)
    (hg : Action.sendFrame g ∈ t.outbox) : g = frmAck s.cfg (t.rcv.expected - 1) := by
  rcases exec_rcv_cases rfl h with ⟨he, -⟩ | ⟨-, rfl⟩ | ⟨-, f', -, -, rfl⟩ | ⟨he, -⟩
  · cases he
  · cases hg
  · rw [State.endRcv_expected]
    exact s.rcv.onFrame_acksLastConsumed s.cfg f' g ((s.sendFrame_mem_endRcv _ g).1 hg)
  · cases he

/-- Settles O42: the frame sent is FRM.ACK of `expected - 1`, and FRM.PARSE reads that number back. -/
theorem acknowledgmentsNameTheLastConsumed : Obligations.AcknowledgmentsNameTheLastConsumed := by
  intro s t f g _ h hg
  have hack := exec_rcvFrame_sent h hg
  have hnumber : le32 g 2 = t.rcv.expected - 1 := by
    rw [hack]
    exact frmParse_frmAck_seq s.cfg _
  refine ⟨hack, hnumber, fun hzero => ?_⟩
  rw [hnumber, hzero]
  rfl

/-- RCV.FINAL clears the flags and turns the unit OFF, in READY and in HALTED (43_receiver.md R213). -/
theorem exec_rcvFinal_of_ne_off {s : State} (hm : s.rcv.mode ≠ .off) :
    exec .rcvFinal s = .next (enterOff .rcv
      ({ s with rcv := s.rcv.final s.rcvFree, rcvFree := s.rcvFree + rcvStride }.settle [])) := by
  show execRcvFinal s = _
  unfold execRcvFinal
  cases h : s.rcv.mode with
  | off => exact absurd h hm
  | ready | halted => rfl

theorem exec_rcvFinal_of_off {s : State} (hm : s.rcv.mode = .off) : exec .rcvFinal s = .refused .unitOff := by
  show execRcvFinal s = _
  simp [execRcvFinal, hm]

/-- Settles O40: each register named is one FINAL writes or keeps. -/
theorem rcvFinalTurnsTheReceiverOff : Obligations.RcvFinalTurnsTheReceiverOff := fun _ =>
  ⟨fun hm => ⟨_, exec_rcvFinal_of_ne_off hm, rfl, fun _ => rfl, rfl, rfl, rfl, rfl, rfl, rfl, rfl⟩,
    exec_rcvFinal_of_off⟩

end Sys2Proof.Machine
end

section
/-! The recoverable conditions and the unit in OFF (60_exceptions.md R255 to R257, R281): what the two guards answer in
READY and in OFF, and what a frame that draws a condition leaves of its unit. -/

namespace Sys2Proof.Machine

/-- In READY a well-formed operation of a unit runs its procedure (42_sender.md R170, 43_receiver.md R210). -/
theorem guarded_of_ready {i : Instr} {s b : State} {m : Mode} (hwf : i.wf s.cfg = true) (hm : m = .ready) :
    withOperands i s (guardMode m s b) = .next b := by
  subst hm
  exact withOperands_wf hwf

/-- In OFF a well-formed operation of a unit has no step (60_exceptions.md R281). -/
theorem guarded_of_off {i : Instr} {s b : State} {m : Mode} (hwf : i.wf s.cfg = true) (hm : m = .off) :
    withOperands i s (guardMode m s b) = .refused .unitOff := by
  subst hm
  exact withOperands_wf hwf

theorem exec_sndAckf_of_ready {s : State} {f : Frame} (hm : s.snd.mode = .ready) (hf : f.length = s.cfg.frameSize) :
    exec (.sndAckf f) s = .next (s.endSnd (s.snd.onAck s.cfg f)) :=
  guarded_of_ready (whole_of_length hf) hm

theorem exec_rcvFrame_of_ready {s : State} {f : Frame} (hm : s.rcv.mode = .ready) (hf : f.length = s.cfg.frameSize) :
    exec (.rcvFrame f) s = .next (s.endRcv (s.rcv.onFrame s.cfg f)) :=
  guarded_of_ready (whole_of_length hf) hm

/-! The condition a frame draws, from the frame. -/

theorem Snd.ackCondition_of_invalid {c : Config} (u : Snd) {f : Frame} (hv : chkValidate c f = false) :
    u.ackCondition c f = some .corruption := if_pos hv

theorem Rcv.frameCondition_of_invalid {c : Config} (r : Rcv) {f : Frame} (hv : chkValidate c f = false) :
    r.frameCondition c f = some .corruption := if_pos hv

theorem Snd.ackCondition_of_out_of_range {c : Config} {u : Snd} {f : Frame} (hv : chkValidate c f = true)
    (hout : ¬(u.ackExpected.toNat ≤ (frmParse f).seq.toNat ∧ (frmParse f).seq.toNat < u.nextSeq.toNat)) :
    u.ackCondition c f = some .staleAck := by
  rw [← Snd.ackInRange_iff, Bool.not_eq_true] at hout
  simp [Snd.ackCondition, hv, hout]

theorem Rcv.frameCondition_of_out_of_window {c : Config} {r : Rcv} {f : Frame} (hv : chkValidate c f = true)
    (hout : ¬(r.expected.toNat ≤ (frmParse f).seq.toNat ∧ (frmParse f).seq.toNat < r.expected.toNat + c.window ∧
      (frmParse f).seq.toNat ≤ 0xFFFFFFFE)) :
    r.frameCondition c f = some .outOfWindow := by
  rw [← Rcv.inWindow_iff, Bool.not_eq_true] at hout
  simp [Rcv.frameCondition, hv, hout]

/-! What the unit does with the condition. -/

/-- SND.ACKF ends with no effect whichever condition the frame draws (42_sender.md R173). -/
theorem exec_sndAckf_of_condition {s : State} {f : Frame} {x : Recoverable} (hm : s.snd.mode = .ready)
    (hf : f.length = s.cfg.frameSize) (hx : s.snd.ackCondition s.cfg f = some x) :
    exec (.sndAckf f) s = .next { s with outbox := [], result := none } := by
  rw [exec_sndAckf_of_ready hm hf, Snd.onAck, hx]
  rfl

/-- `Corruption` ends RCV.FRAME with no effect (43_receiver.md R212). -/
theorem exec_rcvFrame_of_corruption {s : State} {f : Frame} (hm : s.rcv.mode = .ready)
    (hf : f.length = s.cfg.frameSize) (hx : s.rcv.frameCondition s.cfg f = some .corruption) :
    exec (.rcvFrame f) s = .next { s with outbox := [], result := none } := by
  rw [exec_rcvFrame_of_ready hm hf, Rcv.onFrame, hx]
  rfl

/-- `OutOfWindow` ends RCV.FRAME with one acknowledgment and no other effect (43_receiver.md R212). -/
theorem exec_rcvFrame_of_outOfWindow {s : State} {f : Frame} (hm : s.rcv.mode = .ready)
    (hf : f.length = s.cfg.frameSize) (hx : s.rcv.frameCondition s.cfg f = some .outOfWindow) :
    exec (.rcvFrame f) s = .next { s with
      outbox := [.sendFrame (frmAck s.cfg (s.rcv.expected - 1))], result := none } := by
  rw [exec_rcvFrame_of_ready hm hf, Rcv.onFrame, hx]
  rfl

/-- Settles O32: an invalid frame draws `Corruption` in both units before its number is looked at. -/
theorem corruptedFramesAreDropped : Obligations.CorruptedFramesAreDropped := fun s _ hf hv =>
  ⟨fun hm => exec_sndAckf_of_condition hm hf (s.snd.ackCondition_of_invalid hv),
    fun hm => exec_rcvFrame_of_corruption hm hf (s.rcv.frameCondition_of_invalid hv)⟩

/-- Settles O33: a number on either side of the range draws `StaleAck`. -/
theorem staleAcknowledgmentsAreIgnored : Obligations.StaleAcknowledgmentsAreIgnored := by
  intro s f hm hf hv hout
  refine exec_sndAckf_of_condition hm hf (Snd.ackCondition_of_out_of_range hv ?_)
  rintro ⟨hge, hlt⟩
  rcases hout with hbelow | habove
  · exact hbelow.not_ge hge
  · exact habove.not_gt hlt

/-- Settles O34: each of the three causes breaks one of the three bounds of the window. -/
theorem outOfWindowFramesAreNudged : Obligations.OutOfWindowFramesAreNudged := by
  intro s f hm hf hv hout
  refine exec_rcvFrame_of_outOfWindow hm hf (Rcv.frameCondition_of_out_of_window hv ?_)
  rintro ⟨hge, hlt, hmax⟩
  rcases hout with hbelow | hbeyond | hreserved
  · exact hbelow.not_ge hge
  · exact hbeyond.not_gt hlt
  · have hseq : (frmParse f).seq = 0xFFFFFFFF#32 := hreserved
    rw [hseq] at hmax
    exact absurd hmax (by decide)

/-- Settles O49: the mode guard refuses the operations it guards, and TIMEOUT and FINAL refuse by their own tests. -/
theorem unitThatIsOffRefuses : Obligations.UnitThatIsOffRefuses := by
  refine fun i s hwf => ⟨fun hi hinit hm => ?_, fun hi hinit hm => ?_⟩
  · cases i with
    | sndInit => exact absurd rfl hinit
    | sndMsg | sndAckf => exact guarded_of_off hwf hm
    | sndTimeout => exact exec_sndTimeout_of_off hm
    | sndFinal => exact exec_sndFinal_of_off hm
    | chkSum | chkValidate | chkStamp | frmData | frmAck | frmParse | rcvInit | rcvFrame | rcvFinal => cases hi
  · cases i with
    | rcvInit => exact absurd rfl hinit
    | rcvFrame => exact guarded_of_off hwf hm
    | rcvFinal => exact exec_rcvFinal_of_off hm
    | chkSum | chkValidate | chkStamp | frmData | frmAck | frmParse | sndInit | sndMsg | sndAckf | sndTimeout
    | sndFinal => cases hi

end Sys2Proof.Machine
end

section
/-! Commands and instructions: the encoder and the decoder are inverse to each other on well-formed instructions
(30_encoding.md R105), and a step runs what the front of the inbox decodes to. -/

namespace Sys2Proof

/-- A word in front of a buffer is read back from offset 0. -/
theorem le32_put32_append (w : Word) (rest : List Byte) : le32 (put32 w ++ rest) 0 = w := le32_put32 [] rest w

theorem le32_put32_self (w : Word) : le32 (put32 w) 0 = w := by
  simpa using le32_put32_append w []

/-- A buffer that holds a word at offset 0 is that word's bytes and the rest. -/
theorem put32_le32_append_drop {b : List Byte} (h : 4 ≤ b.length) : put32 (le32 b 0) ++ b.drop 4 = b := by
  rw [put32_le32 b 0 (by omega), List.drop_zero, List.take_append_drop]

theorem drop_eq_byteAt_cons {b : List Byte} {k : Nat} (h : k < b.length) :
    b.drop k = byteAt b k :: b.drop (k + 1) := by
  rw [List.drop_eq_getElem_cons h, byteAt, List.getD_eq_getElem _ _ h]

/-- The operand bytes of an instruction read back as its operands (30_encoding.md R105). -/
theorem instrOfOperand_operand (i : Instr) : instrOfOperand i.op i.operand = some i := by
  cases i with
  | chkSum | chkValidate | chkStamp | frmParse | sndAckf | rcvFrame => rfl
  | sndInit | sndTimeout | sndFinal | rcvInit | rcvFinal => rfl
  | frmAck ack => simp [instrOfOperand, Instr.op, Instr.operand, le32_put32_self]
  | sndMsg len data => simp [instrOfOperand, Instr.op, Instr.operand, le32_put32_append]
  | frmData seq plen payload =>
    have hplen : byteAt (put32 seq ++ plen :: payload) 4 = plen := by
      rw [byteAt_append_right (by simp)]
      simp [byteAt]
    simp [instrOfOperand, Instr.op, Instr.operand, le32_put32_append, hplen, List.drop_append]
    omega

/-- Bytes that read as the operands of an operation are the operand bytes of the instruction they give. -/
theorem operand_of_instrOfOperand {op : Op} {b : List Byte} {i : Instr} (h : instrOfOperand op b = some i) :
    i.op = op ∧ i.operand = b := by
  cases op with
  | chkSum | chkValidate | chkStamp | frmParse | sndAckf | rcvFrame => cases h; exact ⟨rfl, rfl⟩
  | sndInit | sndTimeout | sndFinal | rcvInit | rcvFinal =>
    obtain ⟨hb, hi⟩ := Option.ite_none_right_eq_some.1 h
    cases hi
    exact ⟨rfl, hb.symm⟩
  | frmAck =>
    obtain ⟨hb, hi⟩ := Option.ite_none_right_eq_some.1 h
    cases hi
    refine ⟨rfl, ?_⟩
    have hall := put32_le32_append_drop hb.ge
    rwa [List.drop_eq_nil_of_le hb.le, List.append_nil] at hall
  | sndMsg =>
    obtain ⟨hb, hi⟩ := Option.ite_none_right_eq_some.1 h
    cases hi
    exact ⟨rfl, put32_le32_append_drop hb⟩
  | frmData =>
    obtain ⟨hb, hi⟩ := Option.ite_none_right_eq_some.1 h
    cases hi
    refine ⟨rfl, ?_⟩
    have hall := put32_le32_append_drop (Nat.le_of_succ_le hb)
    rwa [drop_eq_byteAt_cons hb] at hall

theorem decode_encode {c : Config} {i : Instr} (h : i.wf c = true) : decode c (encode i) = .ok i :=
  (decode_ok_iff c _ i).2 ⟨i.op, opOfCode_code i.op, instrOfOperand_operand i, h⟩

/-- Settles O3: the code selects the operation and its operand bytes read back, whatever the operands are. -/
theorem decodeOfEncodeIsTheInstruction : Obligations.DecodeOfEncodeIsTheInstruction := fun _ _ => decode_encode

/-- Settles O4: code and operand bytes are each determined by what they decode to. -/
theorem decodableCommandIsItsEncoding : Obligations.DecodableCommandIsItsEncoding := by
  intro c m i h
  obtain ⟨op, hop, hb, hwf⟩ := (decode_ok_iff c m i).1 h
  obtain ⟨hi, hoperand⟩ := operand_of_instrOfOperand hb
  refine ⟨hwf, ?_⟩
  rw [encode, hi, code_of_opOfCode _ _ hop, hoperand]

/-- Settles O1: `op` is its two fields side by side, and each operation has its code for every operand. -/
theorem commandCodesAreTheTable : Obligations.CommandCodesAreTheTable := by
  refine ⟨fun op => ?_, fun _ => rfl, fun _ => rfl, fun _ => rfl, fun _ _ _ => rfl, fun _ => rfl, fun _ => rfl, rfl,
    fun _ _ => rfl, fun _ => rfl, rfl, rfl, rfl, fun _ => rfl, rfl⟩
  simp only [unitField, fnField, BitVec.extractLsb'_toNat, Nat.shiftRight_eq_div_pow]
  omega

/-- Settles O2: six words of the table decode, and two operands of the wrong length are refused. -/
theorem sampleWordsDecode : Obligations.SampleWordsDecode := by
  refine ⟨?_, ?_, ?_, ?_, ?_, ?_, ?_, ?_⟩ <;> decide

end Sys2Proof

namespace Sys2Proof.Machine

/-- Settles O6: the encoding of a well-formed instruction is one of the commands that decode. -/
theorem stepRunsTheFrontCommand : Obligations.StepRunsTheFrontCommand := fun s hl =>
  ⟨fun hi => by simp [step, fetch, hl, hi], fun _ _ _ hi hd => step_of_decode_ok hl hi hd,
    fun _ _ hwf hi => step_of_decode_ok hl hi (decode_encode hwf)⟩

/-- Settles O7: each value named is one the reset input writes. -/
theorem hardResetTurnsBothUnitsOff : Obligations.HardResetTurnsBothUnitsOff := fun s rest hl hi =>
  ⟨hardReset { s with inbox := rest }, by simp [step, fetch, hl, hi], rfl, rfl, rfl, rfl, rfl, rfl, rfl, rfl⟩

end Sys2Proof.Machine
end

section
/-! What CHK does not detect (40_checksum.md R139), and the bytes of a built data frame (41_framer.md R151). -/

namespace Sys2Proof.Machine

/-- Two sums fold to the same value exactly when they agree modulo `0xFFFF` and are zero together
(40_checksum.md R133). -/
theorem closedFold_eq_iff (s t : Nat) :
    closedFold s = closedFold t ↔ s % 0xFFFF = t % 0xFFFF ∧ (s = 0 ↔ t = 0) := by
  unfold closedFold
  split <;> split <;> omega

/-- Settles O14: with the stored field given, a frame validates exactly when its sum folds to what that field names. -/
theorem undetectedChangesKeepTheSum : Obligations.UndetectedChangesKeepTheSum := by
  intro c f g hstored hf
  rw [chkValidate_iff_stored] at hf
  rw [chkValidate_iff_stored, hstored, hf, ← closedFold_eq_iff]
  have := closedFold_le (regionSum c f)
  have := closedFold_le (regionSum c g)
  omega

/-- Offsets 2 to 5 of a data frame hold the sequence number (30_encoding.md R90). -/
theorem byteAt_frmData_seq (c : Config) (seq : Word) (plen : Byte) (payload : List Byte) {k : Nat} (hk : k < 4) :
    byteAt (frmData c seq plen payload) (2 + k) = BitVec.ofNat 8 (seq.toNat / 2 ^ (8 * k)) := by
  rw [frmData, byteAt_chkStamp c _ (by omega)]
  simp only [List.append_assoc]
  rw [byteAt_append_right (by simp), byteAt_append_left (by simp; omega)]
  simp only [List.length_cons, List.length_nil, Nat.add_sub_cancel_left]
  exact byteAt_leBytes _ hk

/-- Offset 6 of a data frame holds `plen` (30_encoding.md R90). -/
theorem byteAt_frmData_plen (c : Config) (seq : Word) (plen : Byte) (payload : List Byte) :
    byteAt (frmData c seq plen payload) 6 = plen :=
  congrArg Fields.plen (frmParse_frmData c seq plen payload)

/-- From offset 7 a data frame holds the payload, then `PAD` (30_encoding.md R90). -/
theorem byteAt_frmData_area (c : Config) (seq : Word) (plen : Byte) (payload : List Byte) (k : Nat) :
    byteAt (frmData c seq plen payload) (7 + k) =
      byteAt (payload ++ List.replicate (c.maxPayload - payload.length) c.pad) k := by
  rw [← byteAt_drop]
  exact congrArg (fun p : Fields => byteAt p.payload k) (frmParse_frmData c seq plen payload)

theorem exec_frmData (seq : Word) (plen : Byte) (payload : List Byte) (s : State) :
    exec (.frmData seq plen payload) s = .next { s with
      outbox := [], result := some (.frame (frmData s.cfg seq plen (copiedPayload s.cfg seq plen payload))) } := rfl

/-- Settles O15: the frame is whole because what is copied never passes its end, and its bytes are those of the layout. -/
theorem frmDataBuildsTheLayout : Obligations.FrmDataBuildsTheLayout := by
  intro s seq plen payload hc
  have h12 := (legal_bounds hc).1
  have hlen := length_copiedPayload s.cfg seq plen payload
  refine ⟨_, exec_frmData seq plen payload s, length_frmData _ _ _ _ (by omega) (by omega),
    fun k => byteAt_frmData_seq _ _ _ _, byteAt_frmData_plen _ _ _ _, fun hfit => ⟨fun k hk hp => ?_, fun k hge hlt => ?_⟩,
    (chkValidate_iff_stored _ _).1 (chkValidate_frmData _ _ _ _)⟩
  · rw [byteAt_frmData_area, byteAt_append_left (by omega), byteAt_copiedPayload seq hfit hk hp]
  · obtain ⟨j, rfl⟩ := Nat.exists_eq_add_of_le (show 7 ≤ k by omega)
    rw [byteAt_frmData_area, byteAt_append_right (by omega)]
    exact byteAt_replicate _ (by unfold Config.maxPayload at *; omega)

end Sys2Proof.Machine
end

section
/-! What the procedures of each unit emit and raise, and what they leave of its mode and fault register, from any state:
the transition table and fault entry follow (60_exceptions.md R262, R280), and what each unit never emits (42_sender.md
R181, 43_receiver.md R222). -/

namespace Sys2Proof.Machine

/-! ### SND -/

/-- The items SND emits before a fault report (42_sender.md R181). -/
def Snd.Emits (c : Config) (a : Action) : Prop :=
  a = .startTimer c.timeout ∨ a = .stopTimer ∨ ∃ f, a = .sendFrame f

/-- What every event of a READY sender does outside its registers: the mode and the fault register stay, its items are
its own, and what it raises is a fault of SND. -/
structure Snd.RunFrame (c : Config) (u : Snd) (p : Progress Snd) : Prop where
  mode : p.unit.mode = u.mode
  fault : p.unit.fault = u.fault
  emits : ∀ a ∈ p.out, Snd.Emits c a

theorem Snd.Emits.of_mem_windowFill {c : Config} {u : Snd} {a : Action} (h : a ∈ (u.windowFill c).out) :
    Snd.Emits c a := by
  obtain ⟨fs, e⟩ := u.windowFill_out c
  rw [e] at h
  obtain ⟨f, -, rfl⟩ := List.mem_map.1 h
  exact .inr (.inr ⟨f, rfl⟩)

theorem Snd.onMessage_runFrame (c : Config) (u : Snd) (len : Word) (data : List Byte) :
    u.RunFrame c (u.onMessage c len data) := by
  rcases u.onMessage_cases c len data with ⟨-, e⟩ | ⟨-, -, e⟩ | ⟨-, -, -, e⟩ | ⟨-, -, -, e⟩ <;> rw [e]
  · exact ⟨rfl, rfl, nofun⟩
  · exact ⟨rfl, rfl, nofun⟩
  · exact ⟨rfl, rfl, nofun⟩
  · have hsame := Snd.windowFill_sameOutside c
      { u with q := u.q ++ [⟨u.msgNext, len, data⟩], msgNext := u.msgNext + 1, tmrRun := true }
    refine ⟨hsame.mode, hsame.fault, fun a ha => ?_⟩
    rcases List.mem_cons.1 ha with rfl | ha
    · exact .inl rfl
    · exact .of_mem_windowFill ha

theorem Snd.acceptAck_runFrame (c : Config) (u : Snd) (ack : Word) : u.RunFrame c (u.acceptAck c ack) := by
  have hcases := u.acceptAck_cases c ack
  generalize hv : ({ u with
    tmrRun := true
    nbuffered := u.nbuffered - (ack.toNat - u.ackExpected.toNat + 1)
    ackExpected := ack + 1 } : Snd) = v at hcases
  have hsame := v.windowFill_sameOutside c
  have hmode : (v.windowFill c).unit.mode = u.mode := hsame.mode.trans (hv ▸ rfl)
  have hfault : (v.windowFill c).unit.fault = u.fault := hsame.fault.trans (hv ▸ rfl)
  have hfill : ∀ a ∈ Action.startTimer c.timeout :: (v.windowFill c).out, Snd.Emits c a := fun a ha => by
    rcases List.mem_cons.1 ha with rfl | ha
    · exact .inl rfl
    · exact .of_mem_windowFill ha
  rcases hcases with ⟨x, -, e⟩ | ⟨-, -, e⟩ | ⟨-, -, e⟩ <;> rw [e]
  · exact ⟨hmode, hfault, hfill⟩
  · refine ⟨hmode, hfault, fun a ha => ?_⟩
    rcases List.mem_append.1 ha with ha | ha
    · exact hfill a ha
    · exact .inr (.inl (List.mem_singleton.1 ha))
  · exact ⟨hmode, hfault, hfill⟩

theorem Snd.onAck_runFrame (c : Config) (u : Snd) (f : Frame) : u.RunFrame c (u.onAck c f) := by
  unfold Snd.onAck
  rcases u.ackCondition_cases c f with ⟨-, e⟩ | ⟨-, -, e⟩ | ⟨-, -, e⟩ <;> rw [e]
  · exact ⟨rfl, rfl, nofun⟩
  · exact ⟨rfl, rfl, nofun⟩
  · exact u.acceptAck_runFrame c _

theorem Snd.onTimeout_runFrame (c : Config) (u : Snd) : u.RunFrame c (u.onTimeout c) := by
  rw [Snd.onTimeout_eq]
  refine ⟨rfl, rfl, fun a ha => ?_⟩
  rcases List.mem_cons.1 ha with rfl | ha
  · exact .inl rfl
  · obtain ⟨f, -, rfl⟩ := List.mem_map.1 ha
    exact .inr (.inr ⟨f, rfl⟩)

theorem Snd.Runs.runFrame {c : Config} {u : Snd} {i : Instr} {p : Progress Snd} (h : u.Runs c i p) :
    u.RunFrame c p := by
  cases h with
  | message _ => exact u.onMessage_runFrame c _ _
  | ack _ => exact u.onAck_runFrame c _
  | timeout _ => exact u.onTimeout_runFrame c

/-- WINDOW_FILL raises `SeqExhausted` alone (42_sender.md R176). -/
theorem Snd.windowFill_raise {c : Config} {u : Snd} {x : Raise} (h : (u.windowFill c).raised = some x) :
    x = ⟨.seqExhausted, noneYet⟩ := by
  rcases u.windowFill_cases c with ⟨-, e⟩ | ⟨-, -, e⟩ <;> rw [e] at h
  · cases h
  · exact (Option.some.inj h).symm

/-- Which event of a READY sender raises which fault (60_exceptions.md R252 to R254). -/
theorem Snd.Runs.raise_cases {c : Config} {u : Snd} {i : Instr} {p : Progress Snd} {x : Raise} (h : u.Runs c i p)
    (hx : p.raised = some x) :
    ((∃ len data, i = .sndMsg len data) ∧ x.cause ∈ [Fatal.capacityExceeded, .seqExhausted, .msgTooLong]) ∨
    ((∃ f, i = .sndAckf f) ∧ x.cause = .seqExhausted) := by
  cases h with
  | @message len data _ =>
    refine .inl ⟨⟨len, data, rfl⟩, ?_⟩
    rcases u.onMessage_cases c len data with ⟨-, e⟩ | ⟨-, -, e⟩ | ⟨-, -, -, e⟩ | ⟨-, -, -, e⟩ <;> rw [e] at hx
    · cases hx
      simp
    · cases hx
      simp
    · cases hx
    · simp [Snd.windowFill_raise hx]
  | @ack f _ =>
    refine .inr ⟨⟨f, rfl⟩, ?_⟩
    unfold Snd.onAck at hx
    rcases u.ackCondition_cases c f with ⟨-, e⟩ | ⟨-, -, e⟩ | ⟨-, -, e⟩ <;> rw [e] at hx
    · cases hx
    · cases hx
    · rcases u.acceptAck_cases c (frmParse f).seq with ⟨r, hr, e⟩ | ⟨-, -, e⟩ | ⟨-, -, e⟩ <;>
        simp only [e] at hx
      · cases hx
        rw [Snd.windowFill_raise hr]
      · cases hx
      · cases hx
  | timeout _ => cases hx

/-! ### RCV -/

/-- The items RCV emits before a fault report (43_receiver.md R222). -/
def Rcv.Emits (c : Config) (a : Action) : Prop :=
  (∃ ack, a = .sendFrame (frmAck c ack)) ∨ ∃ len data, a = .deliverMessage len data ∧ data.length = len.toNat

/-- What RCV.FRAME does outside its registers in READY: the mode and the fault register stay, its items are its own,
and it raises `RxMalformed` alone, with the number it stopped at. -/
structure Rcv.RunFrame (c : Config) (r : Rcv) (p : Progress Rcv) : Prop where
  mode : p.unit.mode = r.mode
  fault : p.unit.fault = r.fault
  emits : ∀ a ∈ p.out, Rcv.Emits c a
  raises : ∀ x, p.raised = some x → x = ⟨.rxMalformed, p.unit.expected⟩

/-- A delivery carries as many bytes as it says (43_receiver.md R215). -/
theorem Rcv.deliverIfComplete_emits {c : Config} {r : Rcv} {a : Action} (h : a ∈ r.deliverIfComplete.out) :
    Rcv.Emits c a := by
  rcases r.deliverIfComplete_cases with ⟨-, e⟩ | ⟨-, e⟩ <;> rw [e] at h
  · exact .inr ⟨_, _, List.mem_singleton.1 h, Memory.length_readBytes _ _ _⟩
  · cases h

theorem Rcv.consume_emits {c : Config} {r : Rcv} {g : Frame} {a : Action} (h : a ∈ (r.consume c g).out) :
    Rcv.Emits c a := by
  unfold Rcv.consume at h
  by_cases hp : c.maxPayload < (frmParse g).plen.toNat
  · simp [hp] at h
  · simp only [hp, if_false] at h
    cases hact : r.asmActive with
    | true =>
      simp only [hact, if_true] at h
      rcases r.consumeNext_cases (frmParse g) with ⟨-, e⟩ | ⟨-, e⟩ <;> rw [e] at h
      · cases h
      · exact Rcv.deliverIfComplete_emits h
    | false =>
      simp only [hact, Bool.false_eq_true, if_false] at h
      rcases r.consumeFirst_cases c (frmParse g) with e | ⟨-, -, -, -, e⟩ <;> rw [e] at h
      · cases h
      · exact Rcv.deliverIfComplete_emits h

theorem Rcv.drain_emits {c : Config} {k : Nat} {r : Rcv} {a : Action} (h : a ∈ (Rcv.drain c k r).out) :
    Rcv.Emits c a := by
  induction k generalizing r with
  | zero => cases h
  | succ k ih =>
    rcases r.drain_step c k with ⟨-, e⟩ | ⟨-, -, e⟩ | ⟨-, -, -, e⟩ <;> rw [e] at h
    · cases h
    · cases h
    · rcases List.mem_append.1 h with hcons | hrest
      · exact Rcv.consume_emits hcons
      · exact ih hrest

theorem Rcv.drain_runFrame (c : Config) (k : Nat) (r : Rcv) : r.RunFrame c (Rcv.drain c k r) :=
  ⟨(r.drain_frame c k).1, (r.drain_frame c k).2.1, fun _ => Rcv.drain_emits, fun _ => Rcv.drain_raise⟩

theorem Rcv.ack_emits {c : Config} {r : Rcv} {a : Action} (h : a ∈ [r.ack c]) : Rcv.Emits c a :=
  .inl ⟨_, List.mem_singleton.1 h⟩

theorem Rcv.acceptFrame_runFrame (c : Config) (r : Rcv) (seq : Word) (f : Frame) :
    r.RunFrame c (r.acceptFrame c seq f) := by
  have hdrain := (r.store c seq f).drain_runFrame c c.window
  rcases r.acceptFrame_cases c seq f with ⟨-, e⟩ | ⟨-, -, e⟩ | ⟨-, hnone, e⟩ <;> rw [e]
  · refine ⟨rfl, rfl, fun a ha => ?_, nofun⟩
    cases hack : c.ackOnBuffer with
    | true => exact Rcv.ack_emits (by simpa [hack] using ha)
    | false => simp [hack] at ha
  · exact ⟨hdrain.mode, hdrain.fault, hdrain.emits, hdrain.raises⟩
  · refine ⟨hdrain.mode, hdrain.fault, fun a ha => ?_, hdrain.raises⟩
    rcases List.mem_append.1 ha with ha | ha
    · exact hdrain.emits a ha
    · exact Rcv.ack_emits ha

theorem Rcv.onFrame_runFrame (c : Config) (r : Rcv) (f : Frame) : r.RunFrame c (r.onFrame c f) := by
  unfold Rcv.onFrame
  rcases r.frameCondition_cases c f with ⟨-, e⟩ | ⟨-, -, e⟩ | ⟨-, -, e⟩ <;> rw [e]
  · exact ⟨rfl, rfl, nofun, nofun⟩
  · exact ⟨rfl, rfl, fun _ => Rcv.ack_emits, nofun⟩
  · exact r.acceptFrame_runFrame c _ f

/-- Settles O46: INIT, FINAL and a halted unit emit nothing, and what RCV.FRAME emits and raises is RCV's own. -/
theorem receiverEmitsOnlyItsOwnActions : Obligations.ReceiverEmitsOnlyItsOwnActions := by
  intro i s t hi h
  rcases exec_rcv_cases hi h with ⟨-, rfl⟩ | ⟨-, rfl⟩ | ⟨-, f, rfl, -, rfl⟩ | ⟨-, -, rfl⟩
  · exact ⟨nofun, fun _ => rfl⟩
  · exact ⟨nofun, fun _ => rfl⟩
  · refine ⟨fun a ha => ?_, fun h => by rcases h with h | h <;> cases h⟩
    have hrun := s.rcv.onFrame_runFrame s.cfg f
    rw [State.endRcv_outbox] at ha
    rcases List.mem_append.1 ha with ha | ha
    · rcases hrun.emits a ha with hack | hdeliver
      · exact .inl hack
      · exact .inr (.inl hdeliver)
    · obtain ⟨x, hx, rfl⟩ := List.mem_map.1 ha
      rw [hrun.raises x (Option.mem_toList.1 hx)]
      exact .inr (.inr ⟨_, rfl⟩)
  · exact ⟨nofun, fun _ => rfl⟩

/-! ### Mode, fault register and report -/

/-- A procedure of a READY sender leaves the unit as READY as it was, with no report, or HALTED with the code of the
fault it raised, which is reported last (60_exceptions.md R262). -/
theorem State.endSnd_lifecycle {s : State} {p : Progress Snd} (h : s.snd.RunFrame s.cfg p) :
    (p.raised = none ∧ (s.endSnd p).snd.mode = s.snd.mode ∧ (s.endSnd p).snd.fault = s.snd.fault ∧
      (s.endSnd p).outbox = p.out) ∨
    (∃ x, p.raised = some x ∧ (s.endSnd p).snd.mode = .halted ∧ (s.endSnd p).snd.fault = x.cause.code ∧
      (s.endSnd p).outbox = p.out ++ [.fault x]) := by
  rw [State.endSnd_snd, State.endSnd_outbox]
  cases hr : p.raised with
  | none => exact .inl ⟨rfl, h.mode, h.fault, by simp⟩
  | some x => exact .inr ⟨x, rfl, rfl, rfl, rfl⟩

theorem State.endRcv_lifecycle {s : State} {p : Progress Rcv} (h : s.rcv.RunFrame s.cfg p) :
    (p.raised = none ∧ (s.endRcv p).rcv.mode = s.rcv.mode ∧ (s.endRcv p).rcv.fault = s.rcv.fault ∧
      (s.endRcv p).outbox = p.out) ∨
    (∃ x, p.raised = some x ∧ (s.endRcv p).rcv.mode = .halted ∧ (s.endRcv p).rcv.fault = x.cause.code ∧
      (s.endRcv p).outbox = p.out ++ [.fault x]) := by
  rw [State.endRcv_rcv, State.endRcv_outbox]
  cases hr : p.raised with
  | none => exact .inl ⟨rfl, h.mode, h.fault, by simp⟩
  | some x => exact .inr ⟨x, rfl, rfl, rfl, rfl⟩

theorem Snd.RunFrame.no_report {c : Config} {u : Snd} {p : Progress Snd} (h : u.RunFrame c p) (x : Raise) :
    Action.fault x ∉ p.out := fun hx => by
  rcases h.emits _ hx with h | h | ⟨_, h⟩ <;> cases h

theorem Rcv.RunFrame.no_report {c : Config} {r : Rcv} {p : Progress Rcv} (h : r.RunFrame c p) (x : Raise) :
    Action.fault x ∉ p.out := fun hx => by
  rcases h.emits _ hx with ⟨_, h⟩ | ⟨_, _, h, -⟩ <;> cases h

/-- The mode and the fault register of SND move by INIT, FINAL and fault entry alone (60_exceptions.md R280). -/
theorem exec_snd_modes {i : Instr} {s t : State} (hi : ownerOf i = some .snd) (hinit : i ≠ .sndInit)
    (hfinal : i ≠ .sndFinal) (h : exec i s = .next t) :
    (t.snd.mode = s.snd.mode ∧ t.snd.fault = s.snd.fault) ∨
    (s.snd.mode = .ready ∧ t.snd.mode = .halted ∧
      ((∃ len data, i = .sndMsg len data) ∧ t.snd.fault ∈ [(0x01 : Byte), 0x02, 0x03] ∨
        (∃ f, i = .sndAckf f) ∧ t.snd.fault = 0x02)) := by
  rcases exec_snd_cases hi h with ⟨he, -⟩ | ⟨-, rfl⟩ | ⟨hm, p, hrun, rfl⟩ | ⟨he, -⟩
  · exact absurd he hinit
  · exact .inl ⟨rfl, rfl⟩
  · rcases State.endSnd_lifecycle hrun.runFrame with ⟨-, hmode, hfault, -⟩ | ⟨x, hx, hmode, hfault, -⟩
    · exact .inl ⟨hmode, hfault⟩
    · refine .inr ⟨hm, hmode, ?_⟩
      rw [hfault]
      rcases hrun.raise_cases hx with ⟨hi, hcause⟩ | ⟨hi, hcause⟩
      · refine .inl ⟨hi, ?_⟩
        revert hcause
        cases x.cause <;> decide
      · exact .inr ⟨hi, by rw [hcause]; rfl⟩
  · exact absurd he hfinal

/-- The mode and the fault register of RCV move by INIT, FINAL and fault entry alone (60_exceptions.md R280). -/
theorem exec_rcv_modes {i : Instr} {s t : State} (hi : ownerOf i = some .rcv) (hinit : i ≠ .rcvInit)
    (hfinal : i ≠ .rcvFinal) (h : exec i s = .next t) :
    (t.rcv.mode = s.rcv.mode ∧ t.rcv.fault = s.rcv.fault) ∨
    (s.rcv.mode = .ready ∧ t.rcv.mode = .halted ∧ (∃ f, i = .rcvFrame f) ∧ t.rcv.fault = 0x11) := by
  rcases exec_rcv_cases hi h with ⟨he, -⟩ | ⟨-, rfl⟩ | ⟨hm, f, rfl, -, rfl⟩ | ⟨he, -⟩
  · exact absurd he hinit
  · exact .inl ⟨rfl, rfl⟩
  · have hrun := s.rcv.onFrame_runFrame s.cfg f
    rcases State.endRcv_lifecycle hrun with ⟨-, hmode, hfault, -⟩ | ⟨x, hx, hmode, hfault, -⟩
    · exact .inl ⟨hmode, hfault⟩
    · refine .inr ⟨hm, hmode, ⟨f, rfl⟩, ?_⟩
      rw [hfault, hrun.raises x hx]
      rfl
  · exact absurd he hfinal

/-- Settles O51: INIT and FINAL write both registers, every other operation of a unit leaves them or enters a fault, and
no operation reaches those of the other unit. -/
theorem modesMoveByTheTable : Obligations.ModesMoveByTheTable := by
  intro i s t h
  have hsnd : ownerOf i ≠ some .snd → t.snd.mode = s.snd.mode ∧ t.snd.fault = s.snd.fault := fun hne => by
    have hu : t.snd = s.snd := by
      rcases ho : ownerOf i with - | (- | -)
      · exact (exec_none_units ho h).1
      · exact absurd ho hne
      · exact exec_rcv_snd ho h
    rw [hu]
    exact ⟨rfl, rfl⟩
  have hrcv : ownerOf i ≠ some .rcv → t.rcv.mode = s.rcv.mode ∧ t.rcv.fault = s.rcv.fault := fun hne => by
    have hr : t.rcv = s.rcv := by
      rcases ho : ownerOf i with - | (- | -)
      · exact (exec_none_units ho h).2
      · exact exec_snd_rcv ho h
      · exact absurd ho hne
    rw [hr]
    exact ⟨rfl, rfl⟩
  refine ⟨?_, ?_, fun hinit hfinal => ?_, ?_, ?_, fun hinit hfinal => ?_⟩
  · rintro rfl
    cases h
    exact ⟨rfl, rfl⟩
  · rintro rfl
    have hm : s.snd.mode ≠ .off := fun hoff => by rw [exec_sndFinal_of_off hoff] at h; cases h
    rw [exec_sndFinal_of_ne_off hm] at h
    cases h
    exact ⟨hm, rfl, rfl⟩
  · by_cases ho : ownerOf i = some .snd
    · exact exec_snd_modes ho hinit hfinal h
    · exact .inl (hsnd ho)
  · rintro rfl
    cases h
    exact ⟨rfl, rfl⟩
  · rintro rfl
    have hm : s.rcv.mode ≠ .off := fun hoff => by rw [exec_rcvFinal_of_off hoff] at h; cases h
    rw [exec_rcvFinal_of_ne_off hm] at h
    cases h
    exact ⟨hm, rfl, rfl⟩
  · by_cases ho : ownerOf i = some .rcv
    · exact exec_rcv_modes ho hinit hfinal h
    · exact .inl (hrcv ho)

/-- A unit halted with one report, which is the last item of the output (60_exceptions.md R262). -/
structure HaltedWithReport (out : List Action) (before after : Mode) (fault : Byte) (x : Raise) : Prop where
  ready : before = .ready
  halted : after = .halted
  fault : fault = x.cause.code
  last : ∃ pre, out = pre ++ [.fault x] ∧ ∀ x', Action.fault x' ∉ pre

/-- No report was made and no unit entered HALTED from READY. -/
structure NoHalt (out : List Action) (before after : Mode) : Prop where
  silent : ∀ x, Action.fault x ∉ out
  mode : before = .ready → after ≠ .halted

theorem HaltedWithReport.eq_of_mem {out : List Action} {m n : Mode} {b : Byte} {x x' : Raise}
    (h : HaltedWithReport out m n b x) (hx : Action.fault x' ∈ out) : x' = x := by
  obtain ⟨pre, rfl, hpre⟩ := h.last
  rcases List.mem_append.1 hx with hx | hx
  · exact absurd hx (hpre x')
  · cases List.mem_singleton.1 hx
    rfl

theorem Snd.stopIfRunning_no_report (u : Snd) (x : Raise) : Action.fault x ∉ u.stopIfRunning := by
  unfold Snd.stopIfRunning
  split <;> simp

/-- A SND operation makes no report and does not halt the unit, or it does both (60_exceptions.md R262). -/
theorem exec_snd_report {i : Instr} {s t : State} (hi : ownerOf i = some .snd) (h : exec i s = .next t) :
    NoHalt t.outbox s.snd.mode t.snd.mode ∨
    ∃ x, x.cause ≠ .rxMalformed ∧ HaltedWithReport t.outbox s.snd.mode t.snd.mode t.snd.fault x := by
  rcases exec_snd_cases hi h with ⟨-, rfl⟩ | ⟨hm, rfl⟩ | ⟨hm, p, hrun, rfl⟩ | ⟨-, -, rfl⟩
  · exact .inl ⟨s.snd.stopIfRunning_no_report, fun _ => nofun⟩
  · exact .inl ⟨nofun, fun hr => by rw [hr] at hm; cases hm⟩
  · rcases State.endSnd_lifecycle hrun.runFrame with ⟨-, hmode, -, hout⟩ | ⟨x, hx, hmode, hfault, hout⟩
    · exact .inl ⟨hout ▸ hrun.runFrame.no_report, fun _ => by rw [hmode, hm]; nofun⟩
    · refine .inr ⟨x, fun hc => ?_, hm, hmode, hfault, p.out, hout, hrun.runFrame.no_report⟩
      rcases hrun.raise_cases hx with ⟨-, hcause⟩ | ⟨-, hcause⟩ <;> rw [hc] at hcause
      · simp at hcause
      · cases hcause
  · exact .inl ⟨s.snd.stopIfRunning_no_report, fun _ => nofun⟩

/-- A RCV operation makes no report and does not halt the unit, or it does both (60_exceptions.md R262). -/
theorem exec_rcv_report {i : Instr} {s t : State} (hi : ownerOf i = some .rcv) (h : exec i s = .next t) :
    NoHalt t.outbox s.rcv.mode t.rcv.mode ∨
    ∃ x, x.cause = .rxMalformed ∧ HaltedWithReport t.outbox s.rcv.mode t.rcv.mode t.rcv.fault x := by
  rcases exec_rcv_cases hi h with ⟨-, rfl⟩ | ⟨hm, rfl⟩ | ⟨hm, f, -, -, rfl⟩ | ⟨-, -, rfl⟩
  · exact .inl ⟨nofun, fun _ => nofun⟩
  · exact .inl ⟨nofun, fun hr => by rw [hr] at hm; cases hm⟩
  · have hrun := s.rcv.onFrame_runFrame s.cfg f
    rcases State.endRcv_lifecycle hrun with ⟨-, hmode, -, hout⟩ | ⟨x, hx, hmode, hfault, hout⟩
    · exact .inl ⟨hout ▸ hrun.no_report, fun _ => by rw [hmode, hm]; nofun⟩
    · exact .inr ⟨x, by rw [hrun.raises x hx], hm, hmode, hfault, _, hout, hrun.no_report⟩
  · exact .inl ⟨nofun, fun _ => nofun⟩

/-- A unit that an operation leaves as it was has not entered HALTED. -/
theorem ne_halted_of_eq {m n : Mode} (h : n = m) : m = .ready → n ≠ .halted := by
  rintro rfl
  rw [h]
  nofun

/-- Settles O52: an operation of a unit reports and halts it together, and reaches no mode but that of its unit. -/
theorem faultEntryReportsLast : Obligations.FaultEntryReportsLast := by
  intro i s t h
  rcases ho : ownerOf i with - | (- | -)
  · obtain ⟨hsnd, hrcv⟩ := exec_none_units ho h
    obtain ⟨v, hv⟩ := exec_answers ho s.cfg
    rw [hv s rfl] at h
    obtain ⟨-, h⟩ := withOperands_next h
    cases h
    exact ⟨nofun, fun hm hh => absurd hh (ne_halted_of_eq rfl hm), fun hm hh => absurd hh (ne_halted_of_eq rfl hm)⟩
  · have hother : s.rcv.mode = .ready → t.rcv.mode ≠ .halted := ne_halted_of_eq (by rw [exec_snd_rcv ho h])
    rcases exec_snd_report ho h with hno | ⟨x, hcause, hyes⟩
    · exact ⟨fun x hx => absurd hx (hno.silent x), fun hm hh => absurd hh (hno.mode hm), fun hm hh => absurd hh (hother hm)⟩
    · have hlast := hyes.last
      refine ⟨fun x' hx' => ?_, fun _ _ => ⟨x, hcause, ?_⟩, fun hm hh => absurd hh (hother hm)⟩
      · cases hyes.eq_of_mem hx'
        exact ⟨hlast, fun hc => absurd hc hcause, fun _ => ⟨rfl, hyes.ready, hyes.halted, hyes.fault⟩⟩
      · obtain ⟨pre, e, -⟩ := hlast
        simp [e]
  · have hother : s.snd.mode = .ready → t.snd.mode ≠ .halted := ne_halted_of_eq (by rw [exec_rcv_snd ho h])
    rcases exec_rcv_report ho h with hno | ⟨x, hcause, hyes⟩
    · exact ⟨fun x hx => absurd hx (hno.silent x), fun hm hh => absurd hh (hother hm), fun hm hh => absurd hh (hno.mode hm)⟩
    · have hlast := hyes.last
      refine ⟨fun x' hx' => ?_, fun hm hh => absurd hh (hother hm), fun _ _ => ⟨x, hcause, ?_⟩⟩
      · cases hyes.eq_of_mem hx'
        exact ⟨hlast, fun _ => ⟨rfl, hyes.ready, hyes.halted, hyes.fault⟩, fun hc => absurd hcause hc⟩
      · obtain ⟨pre, e, -⟩ := hlast
        simp [e]

end Sys2Proof.Machine
end

section
/-! When an operation has a step (60_exceptions.md R263, R265), that SND and RCV commute (20_memory.md R74), and what
the status view shows (10_state.md R46). -/

namespace Sys2Proof.Machine

/-! ### Steps -/

theorem exists_withOperands_next_iff {i : Instr} {s b : State} :
    (∃ t, withOperands i s (.next b) = .next t) ↔ i.wf s.cfg = true := by
  refine ⟨fun ⟨_, h⟩ => (withOperands_next h).1, fun hwf => ⟨b, withOperands_wf hwf⟩⟩

/-- A guarded operation has a step on operands of its types, unless its unit is OFF. -/
theorem exists_guarded_next_iff {i : Instr} {s b : State} {m : Mode} :
    (∃ t, withOperands i s (guardMode m s b) = .next t) ↔ i.wf s.cfg = true ∧ (m != .off) = true := by
  refine ⟨fun ⟨_, h⟩ => ?_, fun ⟨hwf, hm⟩ => ?_⟩
  · obtain ⟨hwf, h⟩ := withOperands_next h
    rcases guardMode_next h with ⟨rfl, -⟩ | ⟨rfl, -⟩ <;> exact ⟨hwf, rfl⟩
  · rw [withOperands_wf hwf]
    cases m with
    | off => cases hm
    | ready | halted => exact ⟨_, rfl⟩

theorem exec_of_ill_formed {i : Instr} {s : State} (hwf : i.wf s.cfg = false) : exec i s = .refused .operandShape := by
  have hguard : ∀ b, withOperands i s b = .refused .operandShape := fun b => by simp [withOperands, hwf]
  cases i with
  | chkSum | chkValidate | chkStamp | frmParse | sndMsg | sndAckf | rcvFrame => exact hguard _
  | frmData | frmAck | sndInit | sndTimeout | sndFinal | rcvInit | rcvFinal => cases hwf

/-- SND.TIMEOUT has a step in READY with the timer running (60_exceptions.md R270). -/
theorem exists_exec_sndTimeout_iff {s : State} :
    (∃ t, exec .sndTimeout s = .next t) ↔ enabled s .sndTimeout = true := by
  cases hm : s.snd.mode with
  | off => simp [exec_sndTimeout_of_off hm, enabled, hm]
  | halted => simp [exec_sndTimeout_of_halted hm, enabled, hm]
  | ready =>
    cases hrun : s.snd.tmrRun with
    | false => simp [exec_sndTimeout_of_stopped hm hrun, enabled, hrun]
    | true => simp [exec_sndTimeout_of_running hm hrun, enabled, hm, hrun]

/-- Settles O53: the operand guard refuses by name, and behind it the unit's mode alone decides, for SND.TIMEOUT with
the timer. -/
theorem operationHasStepIffEnabled : Obligations.OperationHasStepIffEnabled := by
  refine fun i s => ⟨?_, exec_of_ill_formed⟩
  cases i with
  | chkSum | chkValidate | chkStamp | frmParse => exact exists_withOperands_next_iff.trans (and_iff_left rfl).symm
  | frmData | frmAck => exact iff_of_true ⟨_, rfl⟩ ⟨rfl, rfl⟩
  | sndInit | rcvInit => exact iff_of_true ⟨_, rfl⟩ ⟨rfl, rfl⟩
  | sndMsg | sndAckf | rcvFrame => exact exists_guarded_next_iff
  | sndTimeout => exact exists_exec_sndTimeout_iff.trans (and_iff_right rfl).symm
  | sndFinal =>
    by_cases hm : s.snd.mode = .off
    · simp [exec_sndFinal_of_off hm, enabled, hm]
    · simp [exec_sndFinal_of_ne_off hm, enabled, hm, Instr.wf]
  | rcvFinal =>
    by_cases hm : s.rcv.mode = .off
    · simp [exec_rcvFinal_of_off hm, enabled, hm]
    · simp [exec_rcvFinal_of_ne_off hm, enabled, hm, Instr.wf]

/-- In HALTED a well-formed operation behind the mode guard is discarded (60_exceptions.md R263). -/
theorem guarded_of_halted {i : Instr} {s b : State} {m : Mode} (hwf : i.wf s.cfg = true) (hm : m = .halted) :
    withOperands i s (guardMode m s b) = .next { s with outbox := [], result := none } := by
  subst hm
  exact withOperands_wf hwf

/-- Settles O50: the mode guard discards the operations it guards; SND.TIMEOUT is not enabled. -/
theorem haltedUnitDiscardsEvents : Obligations.HaltedUnitDiscardsEvents := by
  refine fun i s hwf => ⟨fun hi hm hinit hfinal => ?_, fun hi hm hinit hfinal => ?_⟩
  · cases i with
    | sndInit => exact absurd rfl hinit
    | sndMsg | sndAckf => exact guarded_of_halted hwf hm
    | sndTimeout => exact exec_sndTimeout_of_halted hm
    | sndFinal => exact absurd rfl hfinal
    | chkSum | chkValidate | chkStamp | frmData | frmAck | frmParse | rcvInit | rcvFrame | rcvFinal => cases hi
  · cases i with
    | rcvInit => exact absurd rfl hinit
    | rcvFrame => exact guarded_of_halted hwf hm
    | rcvFinal => exact absurd rfl hfinal
    | chkSum | chkValidate | chkStamp | frmData | frmAck | frmParse | sndInit | sndMsg | sndAckf | sndTimeout
    | sndFinal => cases hi

/-! ### Commutation -/

/-- The state with the fields a SND operation writes taken from another: SND, its free counter, the output and the
result. -/
def State.sndSideOf (b s : State) : State :=
  { s with snd := b.snd, sndFree := b.sndFree, outbox := b.outbox, result := b.result }

/-- The state with the fields a RCV operation writes taken from another. -/
def State.rcvSideOf (b s : State) : State :=
  { s with rcv := b.rcv, rcvFree := b.rcvFree, outbox := b.outbox, result := b.result }

/-- A SND operation writes its side of the state alone. -/
theorem exec_snd_side {i : Instr} {s t : State} (hi : ownerOf i = some .snd) (h : exec i s = .next t) :
    t = t.sndSideOf s := by
  rcases exec_snd_cases hi h with ⟨-, rfl⟩ | ⟨-, rfl⟩ | ⟨-, p, -, rfl⟩ | ⟨-, -, rfl⟩
  · rfl
  · rfl
  · unfold State.endSnd
    cases p.raised <;> rfl
  · rfl

theorem exec_rcv_side {i : Instr} {s t : State} (hi : ownerOf i = some .rcv) (h : exec i s = .next t) :
    t = t.rcvSideOf s := by
  rcases exec_rcv_cases hi h with ⟨-, rfl⟩ | ⟨-, rfl⟩ | ⟨-, f, -, -, rfl⟩ | ⟨-, -, rfl⟩
  · rfl
  · rfl
  · unfold State.endRcv
    cases (s.rcv.onFrame s.cfg f).raised <;> rfl
  · rfl

/-- A change of the state passes through the two guards when it leaves the build and commutes with what they let
through. -/
theorem guarded_mapNext {i : Instr} {m : Mode} {s s' b b' : State} {g : State → State} (hcfg : s'.cfg = s.cfg)
    (hs : s'.settle [] = g (s.settle [])) (hb : b' = g b) :
    withOperands i s' (guardMode m s' b') = mapNext g (withOperands i s (guardMode m s b)) := by
  subst hb
  unfold withOperands
  rw [hcfg]
  split
  · cases m with
    | off | ready => rfl
    | halted => exact congrArg Host.Outcome.next hs
  · rfl

/-- A SND operation does the same, with the same output, whatever the other side of the state holds. -/
theorem exec_rcvSideOf {i : Instr} (hi : ownerOf i = some .snd) (b s : State) :
    exec i (b.rcvSideOf s) =
      mapNext (fun t => { t with rcv := b.rcv, rcvFree := b.rcvFree }) (exec i s) := by
  have hend : ∀ p : Progress Snd, (b.rcvSideOf s).endSnd p =
      { s.endSnd p with rcv := b.rcv, rcvFree := b.rcvFree } := fun p => by
    unfold State.endSnd
    cases p.raised <;> rfl
  cases i with
  | sndInit => rfl
  | sndMsg len data => exact guarded_mapNext rfl rfl (hend _)
  | sndAckf f => exact guarded_mapNext rfl rfl (hend _)
  | sndTimeout =>
    show execSndTimeout _ = mapNext _ (execSndTimeout s)
    unfold execSndTimeout
    rw [hend, show (b.rcvSideOf s).snd = s.snd from rfl]
    cases s.snd.mode with
    | off | halted => rfl
    | ready => cases s.snd.tmrRun <;> rfl
  | sndFinal =>
    show execSndFinal _ = mapNext _ (execSndFinal s)
    unfold execSndFinal
    rw [show (b.rcvSideOf s).snd = s.snd from rfl]
    cases s.snd.mode <;> rfl
  | chkSum | chkValidate | chkStamp | frmData | frmAck | frmParse | rcvInit | rcvFrame | rcvFinal => cases hi

/-- A RCV operation does the same, with the same output, whatever the other side of the state holds. -/
theorem exec_sndSideOf {i : Instr} (hi : ownerOf i = some .rcv) (b s : State) :
    exec i (b.sndSideOf s) =
      mapNext (fun t => { t with snd := b.snd, sndFree := b.sndFree }) (exec i s) := by
  have hend : ∀ p : Progress Rcv, (b.sndSideOf s).endRcv p =
      { s.endRcv p with snd := b.snd, sndFree := b.sndFree } := fun p => by
    unfold State.endRcv
    cases p.raised <;> rfl
  cases i with
  | rcvInit => rfl
  | rcvFrame f => exact guarded_mapNext rfl rfl (hend _)
  | rcvFinal =>
    show execRcvFinal _ = mapNext _ (execRcvFinal s)
    unfold execRcvFinal
    rw [show (b.sndSideOf s).rcv = s.rcv from rfl]
    cases s.rcv.mode <;> rfl
  | chkSum | chkValidate | chkStamp | frmData | frmAck | frmParse | sndInit | sndMsg | sndAckf | sndTimeout
  | sndFinal => cases hi

theorem exists_of_mapNext {g : State → State} {o : Host.Outcome State Fault Refusal} {t : State}
    (h : mapNext g o = .next t) : ∃ u, o = .next u ∧ t = g u := by
  cases o with
  | next u => exact ⟨u, rfl, (Host.Outcome.next.inj h).symm⟩
  | fault x | refused x => cases h

/-- Settles O48: neither operation reads what the other writes, so each does in one order what it does in the other. -/
theorem unitOperationsCommute : Obligations.UnitOperationsCommute := by
  refine fun i j s hi hj => ⟨fun t₁ t₂ h₁ h₂ => ?_, fun u₁ u₂ h₁ h₂ => ?_⟩
  · rw [exec_snd_side hi h₁, exec_sndSideOf hj] at h₂
    obtain ⟨u₁, hu, rfl⟩ := exists_of_mapNext h₂
    have hu₂ := exec_rcvSideOf hi u₁ s
    rw [← exec_rcv_side hj hu, h₁] at hu₂
    exact ⟨u₁, _, hu, hu₂, rfl, rfl, (exec_cfg h₁).trans (exec_cfg hu).symm, rfl, rfl⟩
  · rw [exec_rcv_side hj h₁, exec_rcvSideOf hi] at h₂
    obtain ⟨t₁, ht, rfl⟩ := exists_of_mapNext h₂
    have ht₂ := exec_sndSideOf hj t₁ s
    rw [← exec_snd_side hi ht, h₁] at ht₂
    exact ⟨t₁, _, ht, ht₂, rfl, rfl, (exec_cfg h₁).trans (exec_cfg ht).symm, rfl, rfl⟩

/-! ### INIT, reset and the status view -/

/-- Settles O19: SND.INIT writes each register named. -/
theorem sndInitGivesFreshSender : Obligations.SndInitGivesFreshSender := fun _ => rfl

/-- Settles O35: RCV.INIT writes each register named. -/
theorem rcvInitGivesFreshReceiver : Obligations.RcvInitGivesFreshReceiver := fun _ => rfl

/-- Settles O56: both units are OFF after reset, so the invariant asks for a legal build and empty stores alone. -/
theorem resetHasTheInvariant : Obligations.ResetHasTheInvariant :=
  State.reset.inv_iff.2 ⟨by decide, .of_off rfl ⟨⟨.nil, nofun⟩, nofun⟩,
    .of_off rfl ⟨⟨.nil, nofun⟩, nofun, ⟨.nil, nofun⟩, nofun, ⟨.nil, nofun⟩, nofun⟩⟩

/-- The word whose bits below `w` are the flags `p` (10_state.md R46). -/
def flagWord (p : Nat → Bool) (w : Nat) : Nat := ((List.range w).map fun i => if p i then 2 ^ i else 0).sum

theorem flagWord_succ (p : Nat → Bool) (w : Nat) :
    flagWord p (w + 1) = flagWord p w + if p w then 2 ^ w else 0 := by
  simp [flagWord, List.range_succ]

theorem flagWord_lt (p : Nat → Bool) (w : Nat) : flagWord p w < 2 ^ w := by
  induction w with
  | zero => exact Nat.one_pos
  | succ w ih =>
    rw [flagWord_succ, pow_succ]
    split <;> omega

theorem testBit_flagWord (p : Nat → Bool) {w i : Nat} (hi : i < w) : (flagWord p w).testBit i = p i := by
  induction w with
  | zero => omega
  | succ w ih =>
    rw [flagWord_succ, Nat.add_comm]
    rcases Nat.lt_succ_iff_lt_or_eq.1 hi with hlt | rfl
    · rw [← ih hlt]
      split
      · exact Nat.testBit_two_pow_add_gt hlt _
      · rw [Nat.zero_add]
    · have htop := Nat.testBit_lt_two_pow (flagWord_lt p i)
      cases hp : p i with
      | true => simp [Nat.testBit_two_pow_add_eq, htop]
      | false => simpa using htop

theorem flagWord_none (w : Nat) : flagWord (Store.read false []) w = 0 := by
  simp [flagWord, Store.read]

theorem Mode.code_cases (m : Mode) :
    (some m.code = some 0 ↔ m = .off) ∧ (some m.code = some 1 ↔ m = .ready) ∧ (some m.code = some 2 ↔ m = .halted) := by
  cases m <;> decide

/-- Settles O54: each number shows its register by definition; the word of the flags is read bit by bit. -/
theorem statusViewShowsTheRegisters : Obligations.StatusViewShowsTheRegisters := by
  refine ⟨fun s => ?_, fun s t u ht hu => ?_⟩
  · obtain ⟨hoff, hready, hhalted⟩ := s.snd.mode.code_cases
    obtain ⟨roff, rready, rhalted⟩ := s.rcv.mode.code_cases
    refine ⟨hoff, hready, hhalted, rfl, rfl, rfl, rfl, rfl, rfl, rfl, rfl, rfl, ?_, roff, rready, rhalted, rfl, rfl, ?_,
      rfl, rfl, ⟨_, rfl, flagWord_lt _ _, fun i => testBit_flagWord _⟩, fun n hge hle => ?_, fun n hge => ?_⟩
    · show some s.snd.tmrRun.toNat = _
      cases s.snd.tmrRun <;> rfl
    · show some s.rcv.asmActive.toNat = _
      cases s.rcv.asmActive <;> rfl
    · interval_cases n <;> rfl
    · unfold State.status
      split
      case h_19 => rfl
      all_goals omega
  · cases ht
    cases hu
    refine ⟨rfl, rfl, fun n hge hle => ?_, fun n hge hle => ?_⟩
    · interval_cases n <;> rfl
    · rcases Nat.lt_or_eq_of_le hle with hlt | rfl
      · interval_cases n <;> rfl
      · exact congrArg some (flagWord_none _)

end Sys2Proof.Machine
end

section
/-! Canonical stores as data: equal reads are equal stores, so writes to a store can be compared by what they read as. -/

namespace Sys2Proof.Machine.Store

variable {α : Type} {d : α}

/-- A cell on a canonical list is one that reads as it stands there and differs from the default. -/
theorem mem_iff_read {m : Store α} (hm : wf d m) (p : Nat × α) : p ∈ m ↔ read d m p.1 = p.2 ∧ p.2 ≠ d := by
  refine ⟨fun h => ⟨read_of_mem hm h, hm.2 p h⟩, fun ⟨hread, hne⟩ => ?_⟩
  have hmem := mem_of_read_ne (m := m) (k := p.1) (by rwa [hread])
  rwa [hread] at hmem

theorem ext_of_read {a b : Store α} (ha : wf d a) (hb : wf d b) (h : ∀ k, read d a k = read d b k) : a = b :=
  haveI : Std.Irrefl fun p q : Nat × α => p.1 < q.1 := ⟨fun p => Nat.lt_irrefl p.1⟩
  haveI : Std.Antisymm fun p q : Nat × α => p.1 < q.1 := ⟨fun p q hpq hqp => absurd hqp (Nat.lt_asymm hpq)⟩
  ha.1.eq_of_mem_iff hb.1 fun p => by rw [mem_iff_read ha, mem_iff_read hb, h]

variable [DecidableEq α]

theorem read_write {m : Store α} (hm : wf d m) (k j : Nat) (v : α) :
    read d (write d m k v) j = if j = k then v else read d m j := by
  split
  case isTrue h => rw [h, read_write_same hm]
  case isFalse h => exact read_write_other h v

/-- The last write to a cell is the one that counts. -/
theorem write_write_same {m : Store α} (hm : wf d m) (k : Nat) (v w : α) :
    write d (write d m k v) k w = write d m k w :=
  ext_of_read (write_wf (write_wf hm _ _) _ _) (write_wf hm _ _) fun j => by
    simp only [read_write (write_wf hm k v), read_write hm]
    split <;> rfl

/-- Writing what a cell reads as changes nothing. -/
theorem write_eq_self {m : Store α} (hm : wf d m) {k : Nat} {v : α} (h : read d m k = v) : write d m k v = m :=
  ext_of_read (write_wf hm _ _) hm fun j => by
    rw [read_write hm]
    split
    case isTrue hj => rw [hj, h]
    case isFalse => rfl

theorem write_comm {m : Store α} (hm : wf d m) {k j : Nat} (h : k ≠ j) (v w : α) :
    write d (write d m k v) j w = write d (write d m j w) k v :=
  ext_of_read (write_wf (write_wf hm _ _) _ _) (write_wf (write_wf hm _ _) _ _) fun i => by
    simp only [read_write (write_wf hm k v), read_write (write_wf hm j w), read_write hm]
    by_cases hj : i = j
    · rw [if_pos hj, if_neg (by omega), if_pos hj]
    · rw [if_neg hj, if_neg hj]

end Sys2Proof.Machine.Store
end

section
/-! DRAIN as a run of passes (43_receiver.md R214): each pass clears one flag, takes the frame of that slot with CONSUME
and moves `expected` on. A run ends at a clear flag or at a malformed frame; what a run keeps is proved once, by
induction on it. -/

namespace Sys2Proof.Machine

/-! ### The tests of CONSUME -/

/-- The message length a first fragment carries stands at offsets 7 to 10 of its frame (30_encoding.md R90). -/
theorem le32_frmParse_payload (f : Frame) : le32 (frmParse f).payload 0 = le32 f 7 := by
  apply BitVec.eq_of_toNat_eq
  simp only [toNat_le32, frmParse, byteAt_drop]

/-- CONSUME takes a frame exactly when it passes the six tests (43_receiver.md R215). -/
theorem Rcv.consume_raised_iff (c : Config) (r : Rcv) (g : Frame) :
    (r.consume c g).raised = none ↔ ¬ Malformed c r g := by
  have hplen : (frmParse g).plen = byteAt g 6 := rfl
  have hclose : ∀ v : Rcv, v.deliverIfComplete.raised = none := fun v => v.deliverIfComplete_frame.2
  simp only [Rcv.consume, Malformed, hplen]
  by_cases hp : c.maxPayload < (byteAt g 6).toNat
  · simp [hp]
  · simp only [hp, if_false, false_or]
    cases hact : r.asmActive with
    | true =>
      simp only [if_true, Rcv.consumeNext, hplen, reduceCtorEq, false_and, false_or, true_and]
      split
      case isTrue h => simp [h]
      case isFalse h => simp [hclose, h]
    | false =>
      simp only [Bool.false_eq_true, if_false, Rcv.consumeFirst, hplen, le32_frmParse_payload, true_and, false_and,
        or_false, not_or]
      split_ifs with h1 h2 h3 h4
      · simp [h1]
      · simp [h2]
      · simp [h3]
      · simp only [false_iff]
        omega
      · simp only [hclose, true_iff]
        omega

/-- CONSUME of a malformed frame leaves the receiver as it was (43_receiver.md R215). -/
theorem Rcv.consume_of_malformed {c : Config} {r : Rcv} {g : Frame} (h : Malformed c r g) :
    r.consume c g = ⟨r, [], some r.malformed⟩ := by
  rcases r.consume_cases c g with e | ⟨hnone, -⟩
  · exact e
  · exact absurd h ((r.consume_raised_iff c g).1 hnone)

theorem Rcv.consume_same {c : Config} {r : Rcv} {g : Frame} (h : ¬ Malformed c r g) :
    (r.consume c g).raised = none ∧ r.SameOutsideAsm (r.consume c g).unit := by
  have hnone := (r.consume_raised_iff c g).2 h
  rcases r.consume_cases c g with e | ⟨-, hsame⟩
  · rw [e] at hnone
    cases hnone
  · exact ⟨hnone, hsame⟩

/-! ### Runs of passes -/

/-- What CONSUME leaves of the frame numbered `expected`, its flag cleared first (43_receiver.md R214). -/
def Rcv.takeExpected (c : Config) (r : Rcv) : Progress Rcv :=
  (r.setOcc c r.expected false).consume c (r.rwinAt c r.expected)

/-- The receiver after one turn of DRAIN. -/
def Rcv.pass (c : Config) (r : Rcv) : Rcv :=
  { (r.takeExpected c).unit with expected := (r.takeExpected c).unit.expected + 1 }

/-- `n` turns of DRAIN that each take the frame numbered `expected`, and what they emit. -/
inductive Rcv.Passes (c : Config) : Nat → Rcv → List Action → Rcv → Prop where
  | stay (r : Rcv) : Rcv.Passes c 0 r [] r
  | turn {n : Nat} {r v : Rcv} {out : List Action} (hocc : r.occAt c r.expected = true)
      (hok : ¬ Malformed c r (r.rwinAt c r.expected)) (rest : Rcv.Passes c n (r.pass c) out v) :
      Rcv.Passes c (n + 1) r ((r.takeExpected c).out ++ out) v

/-- DRAIN goes on from where a run of passes ends. -/
theorem Rcv.Passes.drain {c : Config} {n : Nat} {r v : Rcv} {out : List Action} (h : Rcv.Passes c n r out v) (k : Nat) :
    Rcv.drain c (k + n) r =
      ⟨(Rcv.drain c k v).unit, out ++ (Rcv.drain c k v).out, (Rcv.drain c k v).raised⟩ := by
  induction h with
  | stay r => rfl
  | @turn n r v out hocc hok _ ih =>
    rcases r.drain_step c (k + n) with ⟨ho, -⟩ | ⟨-, hp, -⟩ | ⟨-, -, -, e⟩
    · rw [hocc] at ho
      cases ho
    · have hnone := (Rcv.consume_same (r := r.setOcc c r.expected false) hok).1
      rw [hp] at hnone
      cases hnone
    · have e' : Rcv.drain c (k + n + 1) r = ⟨(Rcv.drain c (k + n) (r.pass c)).unit,
          (r.takeExpected c).out ++ (Rcv.drain c (k + n) (r.pass c)).out,
          (Rcv.drain c (k + n) (r.pass c)).raised⟩ := e
      rw [← Nat.add_assoc, e', ih, List.append_assoc]

/-- With its flag clear DRAIN ends. -/
theorem Rcv.drain_of_gap {c : Config} {k : Nat} {r : Rcv} (h : r.occAt c r.expected = false) :
    Rcv.drain c k r = ⟨r, [], none⟩ := by
  cases k with
  | zero => rfl
  | succ k => simp [Rcv.drain, h]

/-- A malformed frame ends DRAIN, its flag cleared (43_receiver.md R214). -/
theorem Rcv.drain_of_malformed {c : Config} {k : Nat} {r : Rcv} (hocc : r.occAt c r.expected = true)
    (h : Malformed c r (r.rwinAt c r.expected)) :
    Rcv.drain c (k + 1) r = ⟨r.setOcc c r.expected false, [], some r.malformed⟩ := by
  have e := Rcv.consume_of_malformed (r := r.setOcc c r.expected false) h
  simp only [Rcv.drain, hocc, if_true, e]
  rfl

/-- What DRAIN finds with at most `k` frames held: the stores in form, R34 (c), and the frames numbered from `expected`
on (43_receiver.md R214). -/
structure Rcv.DrainInv (c : Config) (k : Nat) (r : Rcv) : Prop where
  sound : r.AsmSound c
  held : Rcv.HeldBelow c k r.occ r.rwin r.expected

/-- What one pass does to the registers outside the accumulator. -/
theorem Rcv.pass_fields {c : Config} {r : Rcv} (hok : ¬ Malformed c r (r.rwinAt c r.expected)) :
    (r.pass c).mode = r.mode ∧ (r.pass c).fault = r.fault ∧ (r.pass c).expected = r.expected + 1 ∧
    (r.pass c).occ = Store.write false r.occ (slotOf c r.expected) false ∧ (r.pass c).rwin = r.rwin := by
  have hsame := (Rcv.consume_same (r := r.setOcc c r.expected false) hok).2
  refine ⟨hsame.mode, hsame.fault, ?_, hsame.occ, hsame.rwin⟩
  show (r.takeExpected c).unit.expected + 1 = _
  rw [Rcv.takeExpected, hsame.expected]
  rfl

theorem Rcv.DrainInv.pass {c : Config} (hc : c.legal = true) {k : Nat} {r : Rcv} (h : r.DrainInv c (k + 1))
    (hk : k + 1 ≤ c.window) (hocc : r.occAt c r.expected = true)
    (hok : ¬ Malformed c r (r.rwinAt c r.expected)) : (r.pass c).DrainInv c k := by
  have hcleared : (r.setOcc c r.expected false).AsmSound c := ⟨h.sound.stores.setOcc hc _ _, h.sound.asm⟩
  have hcons := hcleared.consume (r.rwinAt c r.expected)
  obtain ⟨-, -, hexp, hocc', hrwin⟩ := r.pass_fields hok
  refine ⟨⟨hcons.stores.congr rfl rfl rfl, hcons.asm⟩, ?_⟩
  rw [hexp, hocc', hrwin]
  exact h.held.advance h.sound.stores.occCanonical hk hocc

theorem Rcv.DrainInv.gap_of_zero {c : Config} {r : Rcv} (h : r.DrainInv c 0) : r.occAt c r.expected = false := by
  refine Bool.eq_false_iff.mpr fun ho => ?_
  obtain ⟨-, -, hge, hlt, -⟩ := h.held _ ho
  omega

/-- DRAIN runs its passes to a clear flag or to a malformed frame: with at most `k` frames held, `k` turns are enough
(43_receiver.md R214). -/
theorem Rcv.drain_ends {c : Config} (hc : c.legal = true) {k : Nat} (hk : k ≤ c.window) {r : Rcv}
    (h : r.DrainInv c k) :
    ∃ n out v, n ≤ k ∧ Rcv.Passes c n r out v ∧ v.DrainInv c (k - n) ∧
      ((v.occAt c v.expected = false ∧ Rcv.drain c k r = ⟨v, out, none⟩) ∨
       (v.occAt c v.expected = true ∧ Malformed c v (v.rwinAt c v.expected) ∧
        Rcv.drain c k r = ⟨v.setOcc c v.expected false, out, some v.malformed⟩)) := by
  induction k generalizing r with
  | zero => exact ⟨0, [], r, le_rfl, .stay r, h, .inl ⟨h.gap_of_zero, rfl⟩⟩
  | succ k ih =>
    cases hocc : r.occAt c r.expected with
    | false => exact ⟨0, [], r, Nat.zero_le _, .stay r, h, .inl ⟨hocc, Rcv.drain_of_gap hocc⟩⟩
    | true =>
      by_cases hm : Malformed c r (r.rwinAt c r.expected)
      · exact ⟨0, [], r, Nat.zero_le _, .stay r, h, .inr ⟨hocc, hm, Rcv.drain_of_malformed hocc hm⟩⟩
      · obtain ⟨n, out, v, hn, hpass, hinv, hend⟩ := ih (by omega) (h.pass hc hk hocc hm)
        have hone := (Rcv.Passes.turn hocc hm (.stay _)).drain k
        refine ⟨n + 1, _, v, by omega, .turn hocc hm hpass, by rwa [Nat.add_sub_add_right], ?_⟩
        rw [hone, List.append_nil]
        rcases hend with ⟨hgap, e⟩ | ⟨ho, hmal, e⟩
        · exact .inl ⟨hgap, by rw [e]⟩
        · exact .inr ⟨ho, hmal, by rw [e]⟩

/-! ### What a run keeps -/

theorem Rcv.Passes.mode {c : Config} {n : Nat} {r v : Rcv} {out : List Action} (h : Rcv.Passes c n r out v) :
    v.mode = r.mode ∧ v.fault = r.fault ∧ v.rwin = r.rwin := by
  induction h with
  | stay r => exact ⟨rfl, rfl, rfl⟩
  | turn _ hok _ ih =>
    obtain ⟨hmode, hfault, -, -, hrwin⟩ := Rcv.pass_fields hok
    obtain ⟨hmode', hfault', hrwin'⟩ := ih
    exact ⟨hmode'.trans hmode, hfault'.trans hfault, hrwin'.trans hrwin⟩

/-- A run of `n` passes moves `expected` by `n`, without wrapping: no frame held is numbered `0xFFFFFFFF`. -/
theorem Rcv.Passes.expected {c : Config} (hc : c.legal = true) {n k : Nat} {r v : Rcv} {out : List Action}
    (h : Rcv.Passes c n r out v) (hk : k ≤ c.window) (hinv : r.DrainInv c k) :
    n ≤ k ∧ v.expected.toNat = r.expected.toNat + n := by
  induction h generalizing k with
  | stay r => exact ⟨Nat.zero_le _, rfl⟩
  | @turn n r v out hocc hok _ ih =>
    cases k with
    | zero =>
      rw [hinv.gap_of_zero] at hocc
      cases hocc
    | succ k =>
      have hmax := (hinv.held.seq_expected hk hocc).2
      obtain ⟨hn, he⟩ := ih (by omega) (hinv.pass hc hk hocc hok)
      obtain ⟨-, -, hexp, -, -⟩ := r.pass_fields hok
      refine ⟨by omega, ?_⟩
      rw [he, hexp]
      bv_omega

/-- A run sets no flag. -/
theorem Rcv.Passes.occ_mono {c : Config} {n : Nat} {r v : Rcv} {out : List Action} (h : Rcv.Passes c n r out v)
    (hw : Store.wf false r.occ) {i : Nat} (hi : Store.read false v.occ i = true) : Store.read false r.occ i = true := by
  induction h with
  | stay r => exact hi
  | turn _ hok _ ih =>
    obtain ⟨-, -, -, hocc, -⟩ := Rcv.pass_fields hok
    have hread := ih (hocc ▸ Store.write_wf hw _ _) hi
    rw [hocc, Store.read_write hw] at hread
    split at hread
    · cases hread
    · exact hread

/-- A number the run passed had its flag set, and has it clear. -/
theorem Rcv.Passes.occ_passed {c : Config} (hc : c.legal = true) {n k : Nat} {r v : Rcv} {out : List Action}
    (h : Rcv.Passes c n r out v) (hk : k ≤ c.window) (hinv : r.DrainInv c k) {m : Nat} (hge : r.expected.toNat ≤ m)
    (hlt : m < r.expected.toNat + n) :
    Store.read false r.occ (m % c.window) = true ∧ Store.read false v.occ (m % c.window) = false := by
  induction h generalizing k with
  | stay r => omega
  | @turn n r v out hocc hok rest ih =>
    cases k with
    | zero =>
      rw [hinv.gap_of_zero] at hocc
      cases hocc
    | succ k =>
      have hw := hinv.sound.stores.occCanonical
      obtain ⟨-, -, hexp, hocc', -⟩ := r.pass_fields hok
      have hw' : Store.wf false (r.pass c).occ := hocc' ▸ Store.write_wf hw _ _
      have hsucc : (r.pass c).expected.toNat = r.expected.toNat + 1 :=
        (Rcv.Passes.turn hocc hok (.stay _)).expected hc hk hinv |>.2
      rcases Nat.eq_or_lt_of_le hge with rfl | hgt
      · refine ⟨hocc, Bool.eq_false_iff.mpr fun hv => ?_⟩
        have hread := rest.occ_mono hw' hv
        rw [hocc', slotOf, Store.read_write_same hw] at hread
        cases hread
      · obtain ⟨hset, hclear⟩ := ih (by omega) (hinv.pass hc hk hocc hok) (by omega) (by omega)
        refine ⟨?_, hclear⟩
        rw [hocc', Store.read_write hw] at hset
        split at hset
        · cases hset
        · exact hset

/-- A slot of none of the numbers the run passed keeps its flag. -/
theorem Rcv.Passes.occ_other {c : Config} (hc : c.legal = true) {n k : Nat} {r v : Rcv} {out : List Action}
    (h : Rcv.Passes c n r out v) (hk : k ≤ c.window) (hinv : r.DrainInv c k) {i : Nat}
    (hi : ∀ m, r.expected.toNat ≤ m → m < r.expected.toNat + n → m % c.window ≠ i) :
    Store.read false v.occ i = Store.read false r.occ i := by
  induction h generalizing k with
  | stay r => rfl
  | @turn n r v out hocc hok rest ih =>
    cases k with
    | zero =>
      rw [hinv.gap_of_zero] at hocc
      cases hocc
    | succ k =>
      have hsucc : (r.pass c).expected.toNat = r.expected.toNat + 1 :=
        (Rcv.Passes.turn hocc hok (.stay _)).expected hc hk hinv |>.2
      obtain ⟨-, -, -, hocc', -⟩ := r.pass_fields hok
      rw [ih (by omega) (hinv.pass hc hk hocc hok) fun m hge hlt => hi m (by omega) (by omega), hocc']
      exact Store.read_write_other (hi _ le_rfl (by omega)).symm false

/-! ### RCV.FRAME by runs -/

/-- A valid frame in the window draws no condition (43_receiver.md R212). -/
theorem Rcv.frameCondition_of_in_window {c : Config} {r : Rcv} {f : Frame} (hv : chkValidate c f = true)
    (hge : r.expected.toNat ≤ (le32 f 2).toNat) (hlt : (le32 f 2).toNat < r.expected.toNat + c.window)
    (hmax : le32 f 2 ≠ noneYet) : r.frameCondition c f = none := by
  have hin : r.inWindow c (frmParse f).seq = true := by
    rw [Rcv.inWindow_iff]
    exact ⟨hge, hlt, show (le32 f 2).toNat ≤ _ by bv_omega⟩
  simp [Rcv.frameCondition, hv, hin]

theorem Rcv.onFrame_of_in_window {c : Config} {r : Rcv} {f : Frame} (hv : chkValidate c f = true)
    (hge : r.expected.toNat ≤ (le32 f 2).toNat) (hlt : (le32 f 2).toNat < r.expected.toNat + c.window)
    (hmax : le32 f 2 ≠ noneYet) : r.onFrame c f = r.acceptFrame c (le32 f 2) f := by
  rw [Rcv.onFrame, Rcv.frameCondition_of_in_window hv hge hlt hmax]
  rfl

/-- The frame in hand is one RCV takes next: whole, valid, numbered `expected`, which is not the reserved number. -/
structure Rcv.TakesNext (c : Config) (r : Rcv) (f : Frame) : Prop where
  whole : f.length = c.frameSize
  valid : chkValidate c f = true
  seq : le32 f 2 = r.expected
  number : r.expected ≠ noneYet

theorem Rcv.TakesNext.onFrame {c : Config} (hc : c.legal = true) {r : Rcv} {f : Frame} (h : r.TakesNext c f) :
    r.onFrame c f = r.acceptFrame c r.expected f := by
  obtain ⟨-, hv, hseq, hnum⟩ := h
  have hw := (legal_bounds hc).2.2.1
  rw [← hseq] at hnum
  rw [Rcv.onFrame_of_in_window hv (by rw [hseq]) (by rw [hseq]; omega) hnum, hseq]

/-- Storing the frame numbered `expected` leaves what DRAIN starts from (43_receiver.md R212, R214). -/
theorem Rcv.TakesNext.drainInv {c : Config} (hc : c.legal = true) {r : Rcv} {f : Frame} (h : r.TakesNext c f)
    (hst : r.StoreInv c) (hr : r.Inv c) : (r.store c r.expected f).DrainInv c c.window := by
  obtain ⟨hf, hv, hseq, hnum⟩ := h
  have hw := (legal_bounds hc).2.2.1
  have hseq' : (frmParse f).seq = r.expected := hseq
  refine ⟨⟨(hst.setRwin hc _ hf).setOcc hc _ true, hr.asmInv⟩, ?_⟩
  have hheld := hr.heldBelow.store hst hv (by rw [hseq']) (by rw [hseq']; omega) (by rw [hseq']; bv_omega)
  rwa [hseq'] at hheld

/-- The frame in hand stands in its slot, marked. -/
theorem Rcv.store_at {c : Config} {r : Rcv} (hst : r.StoreInv c) (s : Word) (f : Frame) :
    (r.store c s f).rwinAt c s = f ∧ (r.store c s f).occAt c s = true :=
  ⟨Store.read_write_same hst.rwinCanonical _ _, Store.read_write_same hst.occCanonical _ _⟩

/-- RCV.FRAME on the frame it takes next: the frame is stored, DRAIN runs to the first clear flag and the frame is
acknowledged, or DRAIN stops at a malformed frame (43_receiver.md R212, R214). -/
theorem Rcv.TakesNext.onFrame_cases {c : Config} (hc : c.legal = true) {r : Rcv} {f : Frame} (h : r.TakesNext c f)
    (hst : r.StoreInv c) (hr : r.Inv c) :
    ∃ n out v, n ≤ c.window ∧ Rcv.Passes c n (r.store c r.expected f) out v ∧ v.DrainInv c (c.window - n) ∧
      ((0 < n ∧ v.occAt c v.expected = false ∧ r.onFrame c f = ⟨v, out ++ [v.ack c], none⟩) ∨
       (v.occAt c v.expected = true ∧ Malformed c v (v.rwinAt c v.expected) ∧
        r.onFrame c f = ⟨v.setOcc c v.expected false, out, some v.malformed⟩)) := by
  obtain ⟨n, out, v, hn, hpass, hinv, hend⟩ := Rcv.drain_ends hc le_rfl (h.drainInv hc hst hr)
  refine ⟨n, out, v, hn, hpass, hinv, ?_⟩
  rw [h.onFrame hc, Rcv.acceptFrame, if_pos rfl]
  rcases hend with ⟨hgap, e⟩ | ⟨hocc, hmal, e⟩ <;> simp only [e]
  · refine .inl ⟨Nat.pos_of_ne_zero fun h0 => ?_, hgap, trivial⟩
    subst h0
    cases hpass
    rw [show (r.store c r.expected f).expected = r.expected from rfl, (Rcv.store_at hst _ _).2] at hgap
    cases hgap
  · exact .inr ⟨hocc, hmal, trivial⟩

end Sys2Proof.Machine
end

section
/-! RCV.FRAME, operation by operation: what it answers for each kind of frame, and the frame, the acknowledgments and the
run of flags that follow (43_receiver.md R212, R214, R217). -/

namespace Sys2Proof.Machine

theorem mem_sentFrames {out : List Action} {f : Frame} : f ∈ sentFrames out ↔ Action.sendFrame f ∈ out := by
  unfold sentFrames
  rw [List.mem_filterMap]
  constructor
  · rintro ⟨a, ha, he⟩
    cases a with
    | sendFrame g => cases he; exact ha
    | deliverMessage | startTimer | stopTimer | fault => cases he
  · exact fun h => ⟨_, h, rfl⟩

theorem sentFrames_append (a b : List Action) : sentFrames (a ++ b) = sentFrames a ++ sentFrames b :=
  List.filterMap_append

theorem deliveredMessages_append (a b : List Action) :
    deliveredMessages (a ++ b) = deliveredMessages a ++ deliveredMessages b := List.filterMap_append

theorem sentFrames_eq_nil {out : List Action} (h : ∀ f, Action.sendFrame f ∉ out) : sentFrames out = [] :=
  List.eq_nil_iff_forall_not_mem.2 fun f hf => h f (mem_sentFrames.1 hf)

/-- A fault report is neither a frame nor a message. -/
theorem sentFrames_reports (x : Option Raise) : sentFrames (x.toList.map .fault) = [] := by cases x <;> rfl

/-- What RCV.FRAME answers in READY, but for the frame it takes next (43_receiver.md R212): dropped, nudged, or
buffered. -/
theorem Rcv.onFrame_or_takesNext {c : Config} {r : Rcv} {f : Frame} (hf : f.length = c.frameSize) :
    (chkValidate c f = false ∧ r.onFrame c f = ⟨r, [], none⟩) ∨
    (chkValidate c f = true ∧
      ¬ (r.expected.toNat ≤ (le32 f 2).toNat ∧ (le32 f 2).toNat < r.expected.toNat + c.window ∧ le32 f 2 ≠ noneYet) ∧
      r.onFrame c f = ⟨r, [r.ack c], none⟩) ∨
    (chkValidate c f = true ∧ r.expected.toNat < (le32 f 2).toNat ∧
      (le32 f 2).toNat < r.expected.toNat + c.window ∧ le32 f 2 ≠ noneYet ∧
      r.onFrame c f =
        ⟨r.store c (le32 f 2) f, if c.ackOnBuffer then [(r.store c (le32 f 2) f).ack c] else [], none⟩) ∨
    r.TakesNext c f := by
  cases hv : chkValidate c f with
  | false => exact .inl ⟨rfl, by rw [Rcv.onFrame, r.frameCondition_of_invalid hv]⟩
  | true =>
    by_cases hin : r.expected.toNat ≤ (le32 f 2).toNat ∧ (le32 f 2).toNat < r.expected.toNat + c.window ∧
        le32 f 2 ≠ noneYet
    · obtain ⟨hge, hlt, hnum⟩ := hin
      by_cases he : le32 f 2 = r.expected
      · exact .inr (.inr (.inr ⟨hf, hv, he, he ▸ hnum⟩))
      · refine .inr (.inr (.inl ⟨rfl, Nat.lt_of_le_of_ne hge fun h => he (BitVec.eq_of_toNat_eq h.symm), hlt, hnum, ?_⟩))
        rw [Rcv.onFrame_of_in_window hv hge hlt hnum, Rcv.acceptFrame, if_neg he]
    · refine .inr (.inl ⟨rfl, hin, ?_⟩)
      have hout : r.frameCondition c f = some .outOfWindow := Rcv.frameCondition_of_out_of_window hv
        fun ⟨hge, hlt, hmax⟩ => hin ⟨hge, hlt, fun he => by
          have hmax' : (le32 f 2).toNat ≤ 0xFFFFFFFE := hmax
          rw [he] at hmax'
          exact absurd hmax' (by decide)⟩
      rw [Rcv.onFrame, hout]

/-- Of a READY receiver, what RCV.FRAME answers. -/
theorem exec_rcvFrame_ready {s t : State} {f : Frame} (hm : s.rcv.mode = .ready)
    (h : exec (.rcvFrame f) s = .next t) :
    f.length = s.cfg.frameSize ∧ t = s.endRcv (s.rcv.onFrame s.cfg f) := by
  rcases exec_rcv_cases rfl h with ⟨he, -⟩ | ⟨hh, -⟩ | ⟨-, g, he, hf, rfl⟩ | ⟨he, -⟩
  · cases he
  · rw [hm] at hh
    cases hh
  · cases he
    exact ⟨hf, rfl⟩
  · cases he

/-- A receiver that RCV.FRAME leaves READY has met no fault. -/
theorem endRcv_ready {s : State} {p : Progress Rcv} (h : (s.endRcv p).rcv.mode = .ready) :
    p.raised = none ∧ (s.endRcv p).rcv = p.unit ∧ (s.endRcv p).outbox = p.out := by
  rw [State.endRcv_rcv] at h ⊢
  rw [State.endRcv_outbox]
  cases hr : p.raised with
  | none => simp
  | some x =>
    rw [hr] at h
    cases h

/-- Settles O36: an in-window frame with another number is stored, and `ACK_ON_BUFFER` decides the acknowledgment. -/
theorem outOfOrderFramesAreBuffered : Obligations.OutOfOrderFramesAreBuffered := by
  intro s f hm hf hv hgt hlt hnum
  rw [exec_rcvFrame_of_ready hm hf, Rcv.onFrame_of_in_window hv hgt.le hlt hnum, Rcv.acceptFrame,
    if_neg fun he => by rw [he] at hgt; exact absurd hgt (Nat.lt_irrefl _)]
  rfl

/-- RCV.FRAME writes the window in the slot of the frame in hand alone (43_receiver.md R212). -/
theorem Rcv.onFrame_rwin (c : Config) (r : Rcv) (f : Frame) {k : Nat} (hk : k ≠ slotOf c (le32 f 2)) :
    Store.read (blankFrame c) (r.onFrame c f).unit.rwin k = Store.read (blankFrame c) r.rwin k := by
  have hstore : Store.read (blankFrame c) (r.store c (le32 f 2) f).rwin k = Store.read (blankFrame c) r.rwin k :=
    Store.read_write_other hk f
  unfold Rcv.onFrame
  rcases r.frameCondition_cases c f with ⟨-, e⟩ | ⟨-, -, e⟩ | ⟨-, -, e⟩ <;> simp only [e]
  have hdrain : (Rcv.drain c c.window (r.store c (le32 f 2) f)).unit.rwin = (r.store c (le32 f 2) f).rwin :=
    (Rcv.drain_frame c c.window _).2.2
  rcases r.acceptFrame_cases c (le32 f 2) f with ⟨-, e⟩ | ⟨-, -, e⟩ | ⟨-, -, e⟩ <;>
    rw [show (frmParse f).seq = le32 f 2 from rfl, e]
  · exact hstore
  · rw [hdrain, hstore]
  · rw [hdrain, hstore]

theorem State.endRcv_rwin (s : State) (p : Progress Rcv) : (s.endRcv p).rcv.rwin = p.unit.rwin := by
  rw [State.endRcv_rcv]
  cases p.raised <;> rfl

/-- RCV.FRAME on a frame that is not a valid frame numbered `expected` writes no register, and no byte of `asm_buf`. -/
theorem Rcv.onFrame_of_other {c : Config} {r : Rcv} {f : Frame} (hf : f.length = c.frameSize)
    (h : ¬ (chkValidate c f = true ∧ le32 f 2 = r.expected)) :
    ∃ occ rwin out, r.onFrame c f = ⟨{ r with occ := occ, rwin := rwin }, out, none⟩ := by
  rcases r.onFrame_or_takesNext hf with ⟨-, e⟩ | ⟨-, -, e⟩ | ⟨-, -, -, -, e⟩ | htakes
  · exact ⟨_, _, _, e⟩
  · exact ⟨_, _, _, e⟩
  · exact ⟨_, _, _, e⟩
  · exact absurd ⟨htakes.valid, htakes.seq⟩ h

/-- Settles O41: INIT and FINAL write no store, and RCV.FRAME stores the frame in hand before anything else. -/
theorem receiverOperationsFrame : Obligations.ReceiverOperationsFrame := by
  intro i s t hi h
  rcases exec_rcv_cases hi h with ⟨rfl, rfl⟩ | ⟨hm, rfl⟩ | ⟨-, f, rfl, hf, rfl⟩ | ⟨rfl, -, rfl⟩
  · exact ⟨rfl, rfl, rfl, rfl, rfl, fun _ => ⟨rfl, rfl⟩, nofun⟩
  · exact ⟨rfl, rfl, rfl, rfl, rfl, fun _ => ⟨rfl, rfl⟩,
      fun _ _ => ⟨rfl, fun _ _ => rfl, fun _ => ⟨rfl, rfl, rfl, rfl, rfl, rfl, rfl⟩⟩⟩
  · refine ⟨s.endRcv_snd _, s.endRcv_cfg _, s.endRcv_inbox _, s.endRcv_sndFree _, s.endRcv_result _, ?_, ?_⟩
    · rintro (he | he) <;> cases he
    · rintro g he
      cases he
      refine ⟨s.endRcv_rcvFree _, fun k hk => ?_, fun hother => ?_⟩
      · rw [State.endRcv_rwin]
        exact s.rcv.onFrame_rwin s.cfg f hk
      · obtain ⟨occ, rwin, out, e⟩ := Rcv.onFrame_of_other hf hother
        rw [e]
        exact ⟨rfl, rfl, rfl, rfl, rfl, rfl, rfl⟩
  · exact ⟨rfl, rfl, rfl, rfl, rfl, fun _ => ⟨rfl, rfl⟩, nofun⟩

/-- With `ACK_ON_BUFFER = 1` a valid frame draws one acknowledgment, the last item, unless a fault ends the operation;
then no frame is sent (43_receiver.md R212). -/
theorem Rcv.onFrame_acks {c : Config} {r : Rcv} {f : Frame} (hf : f.length = c.frameSize) (hack : c.ackOnBuffer = true)
    (hv : chkValidate c f = true) :
    (∃ x, (r.onFrame c f).raised = some x ∧ sentFrames (r.onFrame c f).out = []) ∨
    ((r.onFrame c f).raised = none ∧ ∃ out, sentFrames out = [] ∧
      (r.onFrame c f).out = out ++ [(r.onFrame c f).unit.ack c]) := by
  rcases r.onFrame_or_takesNext hf with ⟨hv', -⟩ | ⟨-, -, e⟩ | ⟨-, -, -, -, e⟩ | htakes
  · rw [hv] at hv'
    cases hv'
  · exact .inr ⟨by rw [e], [], rfl, by rw [e]; rfl⟩
  · exact .inr ⟨by rw [e], [], rfl, by rw [e]; simp [hack]⟩
  · have hnone := sentFrames_eq_nil (Rcv.sendFrame_notMem_drain (c := c) (k := c.window) (r := r.store c r.expected f))
    by_cases hin : r.inWindow c (frmParse f).seq = true
    · have hon : r.onFrame c f = r.acceptFrame c r.expected f := by
        rw [Rcv.onFrame, Rcv.frameCondition, hv, hin, show (frmParse f).seq = r.expected from htakes.seq]
        rfl
      rw [hon]
      rcases r.acceptFrame_cases c r.expected f with ⟨hne, -⟩ | ⟨-, ⟨x, hx⟩, e⟩ | ⟨-, hx, e⟩
      · exact absurd rfl hne
      · exact .inl ⟨x, by rw [e, hx], by rw [e, hnone]⟩
      · exact .inr ⟨by rw [e, hx], _, hnone, by rw [e]⟩
    · have hon : r.onFrame c f = ⟨r, [r.ack c], none⟩ := by
        rw [Bool.not_eq_true] at hin
        rw [Rcv.onFrame, Rcv.frameCondition, hv, hin]
        rfl
      exact .inr ⟨by rw [hon], [], rfl, by rw [hon]; rfl⟩

/-- Settles O43: an invalid frame draws nothing, a valid one the acknowledgment that ends the operation, and a fault
comes in its place. -/
theorem oneAcknowledgmentPerValidFrame : Obligations.OneAcknowledgmentPerValidFrame := by
  intro s t f hm hack h
  obtain ⟨hf, rfl⟩ := exec_rcvFrame_ready hm h
  have hmode := (s.rcv.onFrame_runFrame s.cfg f).mode
  have hsent : sentFrames (s.endRcv (s.rcv.onFrame s.cfg f)).outbox = sentFrames (s.rcv.onFrame s.cfg f).out := by
    rw [State.endRcv_outbox, sentFrames_append, sentFrames_reports, List.append_nil]
  refine ⟨fun hv => ?_, fun hv hready => ?_, fun hhalted => ?_⟩
  · rw [hsent, Rcv.onFrame, s.rcv.frameCondition_of_invalid hv]
    rfl
  · obtain ⟨hnone, hunit, hout⟩ := endRcv_ready hready
    rcases Rcv.onFrame_acks hf hack hv with ⟨x, hx, -⟩ | ⟨-, out, hsilent, e⟩
    · rw [hnone] at hx
      cases hx
    · rw [hsent, hout, hunit, e, sentFrames_append, hsilent]
      exact ⟨rfl, List.getLast?_concat⟩
  · rw [hsent]
    cases hv : chkValidate s.cfg f with
    | false =>
      rw [Rcv.onFrame, s.rcv.frameCondition_of_invalid hv]
      rfl
    | true =>
      rcases Rcv.onFrame_acks hf hack hv with ⟨x, -, hsilent⟩ | ⟨hnone, -⟩
      · exact hsilent
      · rw [State.endRcv_rcv, hnone, hmode, hm] at hhalted
        cases hhalted

/-! ### The run of the expected frame -/

/-- Behind the frame in hand the flags are those the operation found. -/
theorem Rcv.read_store_occ {c : Config} {r : Rcv} {s : Word} {f : Frame} {k : Nat} (hk : k ≠ slotOf c s) :
    Store.read false (r.store c s f).occ k = Store.read false r.occ k := Store.read_write_other hk true

/-- What a run behind the frame RCV takes next does to `expected` and to the flags (43_receiver.md R214, R217). -/
structure Rcv.Drained (c : Config) (r v : Rcv) : Prop where
  below : v.expected.toNat ≤ r.expected.toNat + c.window
  passed : ∀ n, r.expected.toNat < n → n < v.expected.toNat →
    Store.read false r.occ (n % c.window) = true ∧ Store.read false v.occ (n % c.window) = false
  other : ∀ k, (∀ n, r.expected.toNat ≤ n → n < v.expected.toNat → n % c.window ≠ k) →
    k ≠ slotOf c r.expected → Store.read false v.occ k = Store.read false r.occ k

theorem Rcv.TakesNext.drained {c : Config} (hc : c.legal = true) {r v : Rcv} {f : Frame} {n : Nat} {out : List Action}
    (h : r.TakesNext c f) (hst : r.StoreInv c) (hr : r.Inv c) (hpass : Rcv.Passes c n (r.store c r.expected f) out v) :
    v.expected.toNat = r.expected.toNat + n ∧ r.Drained c v := by
  have hinv := h.drainInv hc hst hr
  obtain ⟨hn, hexp⟩ := hpass.expected hc le_rfl hinv
  have hexp' : v.expected.toNat = r.expected.toNat + n := hexp
  refine ⟨hexp', by omega, fun m hgt hlt => ?_, fun k hk hne => ?_⟩
  · obtain ⟨hset, hclear⟩ := hpass.occ_passed hc le_rfl hinv (m := m) hgt.le (by rw [Rcv.store_expected]; omega)
    have hslot : m % c.window ≠ slotOf c r.expected := fun he =>
      hgt.ne' (eq_of_mod_eq_of_lt hgt.le (by omega) he)
    rw [Rcv.read_store_occ hslot] at hset
    exact ⟨hset, hclear⟩
  · rw [hpass.occ_other hc le_rfl hinv fun m hge hlt => hk m hge (by rw [Rcv.store_expected] at hlt; omega),
      Rcv.read_store_occ hne]

/-- RCV.FRAME never moves `expected` down, and moves it by at most `W` (43_receiver.md R217). -/
theorem Rcv.onFrame_expected {c : Config} (hc : c.legal = true) {r : Rcv} {f : Frame} (hf : f.length = c.frameSize)
    (hst : r.StoreInv c) (hr : r.Inv c) :
    r.expected.toNat ≤ (r.onFrame c f).unit.expected.toNat ∧
      (r.onFrame c f).unit.expected.toNat ≤ r.expected.toNat + c.window := by
  rcases r.onFrame_or_takesNext hf with ⟨-, e⟩ | ⟨-, -, e⟩ | ⟨-, -, -, -, e⟩ | htakes
  · rw [e]; exact ⟨le_rfl, Nat.le_add_right _ _⟩
  · rw [e]; exact ⟨le_rfl, Nat.le_add_right _ _⟩
  · rw [e]; exact ⟨le_rfl, Nat.le_add_right _ _⟩
  · obtain ⟨n, out, v, hn, hpass, -, hend⟩ := htakes.onFrame_cases hc hst hr
    obtain ⟨hexp, -⟩ := htakes.drained hc hst hr hpass
    have hunit : (r.onFrame c f).unit.expected = v.expected := by
      rcases hend with ⟨-, -, e⟩ | ⟨-, -, e⟩ <;> rw [e]
      rfl
    rw [hunit]
    omega

/-- Settles O44: the acknowledgment names the `expected` the operation leaves, and a run of passes ends at the first
clear flag. -/
theorem drainAdvancesToTheFirstGap : Obligations.DrainAdvancesToTheFirstGap := by
  intro s t f hs hm h
  have hsent := fun g => exec_rcvFrame_sent (g := g) h
  obtain ⟨hf, rfl⟩ := exec_rcvFrame_ready hm h
  have hst := hs.rcvStores
  have hr := hs.rcv hm
  obtain ⟨hup, hmax⟩ := Rcv.onFrame_expected hs.legal hf hst hr
  rw [← State.endRcv_expected] at hup hmax
  refine ⟨hup, hmax, fun g hg => ?_, fun hv hseq hnum hready => ?_⟩
  · have hack : le32 g 2 + 1 = (s.endRcv (s.rcv.onFrame s.cfg f)).rcv.expected := by
      rw [hsent g hg, show le32 _ 2 = _ from frmParse_frmAck_seq s.cfg _, BitVec.sub_add_cancel]
    rwa [hack]
  · have htakes : s.rcv.TakesNext s.cfg f := ⟨hf, hv, hseq, hnum⟩
    obtain ⟨hnone, hunit, -⟩ := endRcv_ready hready
    obtain ⟨n, out, v, -, hpass, -, ⟨hpos, hgap, e⟩ | ⟨-, -, e⟩⟩ := htakes.onFrame_cases hs.legal hst hr
    · obtain ⟨hexp, hdrained⟩ := htakes.drained hs.legal hst hr hpass
      rw [hunit, e]
      refine ⟨by rw [hexp]; omega, hdrained.passed, hgap, fun k hk => hdrained.other k hk ?_⟩
      exact (hk _ le_rfl (by rw [hexp]; omega)).symm
    · rw [e] at hnone
      cases hnone

/-- Storing a frame again in the slot that holds it changes nothing. -/
theorem Rcv.store_store {c : Config} {r : Rcv} (hst : r.StoreInv c) (s : Word) (f : Frame) :
    (r.store c s f).store c s f = r.store c s f := by
  simp only [Rcv.store, Rcv.setRwin, Rcv.setOcc]
  rw [Store.write_write_same hst.rwinCanonical, Store.write_write_same hst.occCanonical]

/-- A frame given again to the receiver it left without a fault: RCV stays as it is, and the frame draws at most an
acknowledgment for `expected - 1` (43_receiver.md R212, corner cases (b) and (c)). -/
theorem Rcv.onFrame_again {c : Config} (hc : c.legal = true) {r : Rcv} {f : Frame} (hf : f.length = c.frameSize)
    (hst : r.StoreInv c) (hr : r.Inv c) (hnone : (r.onFrame c f).raised = none) :
    ∃ out, (r.onFrame c f).unit.onFrame c f = ⟨(r.onFrame c f).unit, out, none⟩ ∧
      (out = [] ∨ out = [(r.onFrame c f).unit.ack c]) ∧
      (chkValidate c f = true → c.ackOnBuffer = true → out = [(r.onFrame c f).unit.ack c]) := by
  rcases r.onFrame_or_takesNext hf with ⟨hv, e⟩ | ⟨-, -, e⟩ | ⟨hv, hgt, hlt, hnum, e⟩ | htakes
  · rw [e]
    exact ⟨_, e, .inl rfl, fun hv' => by rw [hv] at hv'; cases hv'⟩
  · rw [e]
    exact ⟨_, e, .inr rfl, fun _ _ => rfl⟩
  · rw [e]
    refine ⟨if c.ackOnBuffer then [(r.store c (le32 f 2) f).ack c] else [], ?_, ?_, fun _ hack => by simp [hack]⟩
    · rw [Rcv.onFrame_of_in_window hv (by rw [Rcv.store_expected]; exact hgt.le) (by rw [Rcv.store_expected]; exact hlt)
        hnum, Rcv.acceptFrame, if_neg fun he => by rw [he] at hgt; exact absurd hgt (Nat.lt_irrefl _),
        Rcv.store_store hst]
    · cases c.ackOnBuffer with
      | true => exact .inr rfl
      | false => exact .inl rfl
  · obtain ⟨n, out, v, -, hpass, -, ⟨hpos, -, e⟩ | ⟨-, -, e⟩⟩ := htakes.onFrame_cases hc hst hr
    · obtain ⟨hexp, -⟩ := htakes.drained hc hst hr hpass
      have hseq : (frmParse f).seq = r.expected := htakes.seq
      have hpast : v.frameCondition c f = some .outOfWindow :=
        Rcv.frameCondition_of_out_of_window htakes.valid fun ⟨hge, _⟩ => by rw [hseq] at hge; omega
      rw [e]
      exact ⟨_, by rw [Rcv.onFrame, hpast], .inr rfl, fun _ _ => rfl⟩
    · rw [e] at hnone
      cases hnone

/-- Settles O45: whatever the first delivery did, the second finds nothing left to do but to acknowledge. -/
theorem duplicateFramesChangeNothing : Obligations.DuplicateFramesChangeNothing := by
  intro s t f hs hm h hready
  obtain ⟨hf, rfl⟩ := exec_rcvFrame_ready hm h
  obtain ⟨hnone, hunit, -⟩ := endRcv_ready hready
  obtain ⟨out, e, hout, hack⟩ := Rcv.onFrame_again hs.legal hf hs.rcvStores (hs.rcv hm) hnone
  rw [← hunit] at e hout hack
  refine ⟨_, exec_rcvFrame_of_ready hready (hf.trans (by rw [State.endRcv_cfg])), ?_⟩
  rw [State.endRcv_cfg, e]
  refine ⟨rfl, ?_, hack⟩
  show deliveredMessages out = []
  rcases hout with rfl | rfl <;> rfl

end Sys2Proof.Machine
end

section
/-! The accumulator in detail (43_receiver.md R215): what a fragment CONSUME takes writes into `asm_buf`, and what is
delivered. -/

namespace Sys2Proof.Machine

/-- A copy, read byte by byte. -/
theorem Memory.read_writeBytes_eq {m : Memory} (hm : m.wf) (off : Nat) (bytes : List Byte) (a : Nat) :
    (m.writeBytes off bytes).read a =
      if off ≤ a ∧ a < off + bytes.length then byteAt bytes (a - off) else m.read a := by
  split
  case isTrue h =>
    obtain ⟨k, rfl⟩ := Nat.exists_eq_add_of_le h.1
    have hk : k < bytes.length := by omega
    rw [Memory.read_writeBytes hm hk, Nat.add_sub_cancel_left, byteAt, List.getD_eq_getElem _ _ hk]
  case isFalse h => exact Memory.read_writeBytes_other (by omega)

/-- What was in front of a copy and the bytes copied, read together. -/
theorem Memory.readBytes_writeBytes {m : Memory} (hm : m.wf) (off : Nat) (bytes : List Byte) :
    (m.writeBytes off bytes).readBytes 0 (off + bytes.length) = m.readBytes 0 off ++ bytes := by
  refine List.ext_getElem (by simp) fun k h1 h2 => ?_
  rw [Memory.length_readBytes] at h1
  simp only [Memory.readBytes, List.getElem_map, List.getElem_range, Nat.zero_add, List.getElem_append,
    List.length_map, List.length_range, Memory.read_writeBytes_eq hm]
  by_cases hk : k < off
  · rw [if_neg (by omega), dif_pos hk]
  · rw [if_pos (by omega), dif_neg hk, byteAt, List.getD_eq_getElem]

/-- The bytes `[off, off + n)` of a frame. -/
theorem length_drop_take {f : Frame} {off n : Nat} (h : off + n ≤ f.length) : ((f.drop off).take n).length = n := by
  simp
  omega

theorem byteAt_drop_take (f : Frame) (off : Nat) {n k : Nat} (hk : k < n) :
    byteAt ((f.drop off).take n) k = byteAt f (off + k) := by
  rw [← byteAt_drop]
  simp [byteAt, List.getD_eq_getElem?_getD, hk]

/-- What CONSUME opens or extends the accumulator to, before it tests for completion: `off + bytes` of a message of
`size` bytes. -/
def Rcv.accumulate (r : Rcv) (off : Nat) (bytes : List Byte) (size : Word) : Rcv :=
  { r.asmWrite off bytes with
    asmSize := size, asmOff := BitVec.ofNat 32 (off + bytes.length), asmActive := true }

/-- A first fragment CONSUME takes opens the accumulator with its message bytes (43_receiver.md R215). -/
theorem Rcv.consume_first {c : Config} {r : Rcv} {g : Frame} (hc : c.legal = true) (hg : g.length = c.frameSize)
    (hact : r.asmActive = false) (hok : ¬ Malformed c r g) :
    11 + ((byteAt g 6).toNat - 4) ≤ g.length ∧ (byteAt g 6).toNat - 4 ≤ (le32 g 7).toNat ∧
    r.consume c g =
      (r.accumulate 0 ((g.drop 11).take ((byteAt g 6).toNat - 4)) (le32 g 7)).deliverIfComplete := by
  have hmax : c.maxPayload = c.frameSize - 7 := rfl
  have h12 := (legal_bounds hc).1
  have hfit : ¬ c.maxPayload < (byteAt g 6).toNat := fun h => hok (.inl h)
  have hnone := (r.consume_raised_iff c g).2 hok
  have hcons : r.consume c g = r.consumeFirst c (frmParse g) := by
    simp only [Rcv.consume, hact]
    exact if_neg hfit
  rw [hcons] at hnone ⊢
  rcases r.consumeFirst_cases c (frmParse g) with e | ⟨h4, -, hn, -, e⟩
  · rw [e] at hnone
    cases hnone
  · rw [le32_frmParse_payload] at hn e
    have hin : 11 + ((byteAt g 6).toNat - 4) ≤ g.length := by
      have h4' : 4 ≤ (byteAt g 6).toNat := h4
      omega
    refine ⟨hin, hn, ?_⟩
    rw [e, Rcv.accumulate, length_drop_take hin, Nat.zero_add, bytesFrom,
      show (frmParse g).payload = g.drop 7 from rfl, List.drop_drop]
    rfl

/-- A continuation CONSUME takes extends the accumulator with its payload (43_receiver.md R215). -/
theorem Rcv.consume_next {c : Config} {r : Rcv} {g : Frame} (hc : c.legal = true) (hg : g.length = c.frameSize)
    (hact : r.asmActive = true) (hok : ¬ Malformed c r g) :
    7 + (byteAt g 6).toNat ≤ g.length ∧ r.asmOff.toNat + (byteAt g 6).toNat ≤ r.asmSize.toNat ∧
    r.consume c g =
      (r.accumulate r.asmOff.toNat ((g.drop 7).take (byteAt g 6).toNat) r.asmSize).deliverIfComplete := by
  have hmax : c.maxPayload = c.frameSize - 7 := rfl
  have h12 := (legal_bounds hc).1
  have hfit : ¬ c.maxPayload < (byteAt g 6).toNat := fun h => hok (.inl h)
  have hnone := (r.consume_raised_iff c g).2 hok
  have hcons : r.consume c g = r.consumeNext (frmParse g) := by
    simp only [Rcv.consume, hact]
    exact if_neg hfit
  rw [hcons] at hnone ⊢
  rcases r.consumeNext_cases (frmParse g) with ⟨-, e⟩ | ⟨hroom, e⟩
  · rw [e] at hnone
    cases hnone
  · have hin : 7 + (byteAt g 6).toNat ≤ g.length := by omega
    refine ⟨hin, hroom, ?_⟩
    have hoff : r.asmOff + BitVec.ofNat 32 (byteAt g 6).toNat =
        BitVec.ofNat 32 (r.asmOff.toNat + (byteAt g 6).toNat) := by
      rw [BitVec.ofNat_add, BitVec.ofNat_toNat 32 r.asmOff, BitVec.setWidth_eq]
    rw [e, Rcv.accumulate, length_drop_take hin, ← hoff, ← hact]
    rfl

/-- An accumulator that lacks bytes is kept; one that has them all delivers them and is Idle (43_receiver.md R215). -/
theorem Rcv.accumulate_deliver {r : Rcv} (hw : r.asmBuf.wf) {off : Nat} {bytes : List Byte} {size : Word}
    (hle : off + bytes.length ≤ size.toNat) :
    (off + bytes.length < size.toNat ∧
      (r.accumulate off bytes size).deliverIfComplete = ⟨r.accumulate off bytes size, [], none⟩) ∨
    (off + bytes.length = size.toNat ∧
      (r.accumulate off bytes size).deliverIfComplete =
        ⟨(r.accumulate off bytes size).asmIdle,
          [.deliverMessage size (r.asmBuf.readBytes 0 off ++ bytes)], none⟩) := by
  have hsize := size.isLt
  have hoff : (r.accumulate off bytes size).asmOff.toNat = off + bytes.length := by
    show (BitVec.ofNat 32 _).toNat = _
    rw [BitVec.toNat_ofNat, Nat.mod_eq_of_lt (by omega)]
  rcases (r.accumulate off bytes size).deliverIfComplete_cases with ⟨heq, e⟩ | ⟨hne, e⟩
  · have heq' : off + bytes.length = size.toNat := hoff.symm.trans (congrArg BitVec.toNat heq)
    refine .inr ⟨heq', e.trans ?_⟩
    have hread : (r.accumulate off bytes size).asmPrefix size.toNat = r.asmBuf.readBytes 0 off ++ bytes := by
      rw [← heq']
      exact Memory.readBytes_writeBytes hw off bytes
    rw [show (r.accumulate off bytes size).asmSize = size from rfl, hread]
  · refine .inl ⟨Nat.lt_of_le_of_ne hle fun heq => hne (BitVec.eq_of_toNat_eq (hoff.trans heq)), e⟩

/-! ### The frame taken next, with nothing buffered behind it -/

/-- Storing the expected frame and clearing its flag again leaves the flags as they were: only its slot is written. -/
theorem Rcv.store_setOcc {c : Config} {r : Rcv} (hst : r.StoreInv c) (hr : r.Inv c) (f : Frame) :
    (r.store c r.expected f).setOcc c r.expected false = r.setRwin c r.expected f := by
  simp only [Rcv.store, Rcv.setRwin, Rcv.setOcc]
  rw [Store.write_write_same hst.occCanonical, Store.write_eq_self hst.occCanonical hr.gap]

theorem Rcv.takeExpected_store {c : Config} {r : Rcv} (hst : r.StoreInv c) (hr : r.Inv c) (f : Frame) :
    (r.store c r.expected f).takeExpected c = (r.setRwin c r.expected f).consume c f := by
  rw [Rcv.takeExpected, show (r.store c r.expected f).expected = r.expected from rfl, Rcv.store_setOcc hst hr,
    (Rcv.store_at hst _ _).1]

/-- With nothing buffered behind it the frame RCV takes next is consumed and acknowledged alone. -/
theorem Rcv.TakesNext.onFrame_single {c : Config} (hc : c.legal = true) {r : Rcv} {f : Frame} (h : r.TakesNext c f)
    (hst : r.StoreInv c) (hr : r.Inv c) (hgap : r.occAt c (r.expected + 1) = false) (hok : ¬ Malformed c r f) :
    let p := (r.setRwin c r.expected f).consume c f
    r.onFrame c f =
      ⟨{ p.unit with expected := r.expected + 1 }, p.out ++ [.sendFrame (frmAck c r.expected)], none⟩ := by
  intro p
  obtain ⟨k, hk⟩ := Nat.exists_eq_succ_of_ne_zero (show c.window ≠ 0 by have := (legal_bounds hc).2.2.1; omega)
  have hocc := (Rcv.store_at hst r.expected f).2
  have hat := (Rcv.store_at hst r.expected f).1
  have hok' : ¬ Malformed c (r.store c r.expected f) ((r.store c r.expected f).rwinAt c r.expected) := by
    rw [hat]
    exact hok
  have htake := Rcv.takeExpected_store hst hr f
  have hsame := (Rcv.consume_same (r := r.setRwin c r.expected f) hok).2
  have hpass : (r.store c r.expected f).pass c = { p.unit with expected := r.expected + 1 } := by
    rw [Rcv.pass, htake, hsame.expected]
    rfl
  have hgap' : Rcv.occAt c { p.unit with expected := r.expected + 1 } (r.expected + 1) = false := by
    show Store.read false p.unit.occ (slotOf c (r.expected + 1)) = false
    rw [hsame.occ]
    exact hgap
  have hdrain := (Rcv.Passes.turn hocc hok' (.stay _)).drain k
  rw [h.onFrame hc, Rcv.acceptFrame, if_pos rfl, hk, Nat.succ_eq_add_one, hdrain, hpass, Rcv.drain_of_gap hgap', htake]
  simp [Rcv.ack, Rcv.ackNumber, p]

/-- What a step with one frame taken leaves, whatever the fragment was. -/
structure TookOne (s t : State) (f : Frame) : Prop where
  mode : t.rcv.mode = .ready
  fault : t.rcv.fault = s.rcv.fault
  expected : t.rcv.expected = s.rcv.expected + 1
  snd : t.snd = s.snd
  occ : ∀ k, Store.read false t.rcv.occ k = Store.read false s.rcv.occ k
  rwin : ∀ k, k ≠ slotOf s.cfg s.rcv.expected →
    Store.read (blankFrame s.cfg) t.rcv.rwin k = Store.read (blankFrame s.cfg) s.rcv.rwin k

/-- The step of the frame RCV takes next, with nothing buffered behind it: what CONSUME left, `expected` moved, and the
acknowledgment. -/
theorem exec_rcvFrame_single {s : State} {f : Frame} (hs : s.Inv) (hm : s.rcv.mode = .ready)
    (h : s.rcv.TakesNext s.cfg f) (hgap : s.rcv.occAt s.cfg (s.rcv.expected + 1) = false)
    (hok : ¬ Malformed s.cfg s.rcv f) :
    let p := (s.rcv.setRwin s.cfg s.rcv.expected f).consume s.cfg f
    ∃ t, exec (.rcvFrame f) s = .next t ∧ TookOne s t f ∧
      t.rcv = { p.unit with expected := s.rcv.expected + 1 } ∧
      t.outbox = p.out ++ [.sendFrame (frmAck s.cfg s.rcv.expected)] := by
  intro p
  have hon := h.onFrame_single hs.legal hs.rcvStores (hs.rcv hm) hgap hok
  have hsame := (Rcv.consume_same (r := s.rcv.setRwin s.cfg s.rcv.expected f) hok).2
  refine ⟨_, exec_rcvFrame_of_ready hm h.whole, ?_⟩
  rw [hon]
  refine ⟨⟨hsame.mode.trans hm, hsame.fault, rfl, rfl, fun k => ?_, fun k hk => ?_⟩, rfl, rfl⟩
  · show Store.read false p.unit.occ k = _
    rw [hsame.occ]
    rfl
  · show Store.read _ p.unit.rwin k = _
    rw [hsame.rwin]
    exact Store.read_write_other hk f

/-- The bytes of a frame copied to `asm_buf`, read back one by one. -/
theorem Memory.read_writeBytes_frame {m : Memory} (hm : m.wf) {f : Frame} {o n : Nat} (hin : o + n ≤ f.length)
    (off a : Nat) : (m.writeBytes off ((f.drop o).take n)).read a =
      if off ≤ a ∧ a < off + n then byteAt f (o + (a - off)) else m.read a := by
  rw [Memory.read_writeBytes_eq hm, length_drop_take hin]
  split
  case isTrue h => exact byteAt_drop_take f o (by omega)
  case isFalse => rfl

/-- Settles O37: the accumulator opens with the fragment's bytes, and what it lacks decides whether the message goes. -/
theorem firstFragmentOpensTheMessage : Obligations.FirstFragmentOpensTheMessage := by
  intro s f hs hm hf hv hseq hnum hgap hact hok n
  have hw : s.rcv.asmBuf.wf := hs.rcvStores.asmCanonical
  obtain ⟨t, ht, hone, hrcv, hout⟩ := exec_rcvFrame_single hs hm ⟨hf, hv, hseq, hnum⟩ hgap hok
  obtain ⟨hin, hle, e⟩ := Rcv.consume_first (r := s.rcv.setRwin s.cfg s.rcv.expected f) hs.legal hf hact hok
  have hlen : ((f.drop 11).take n).length = n := length_drop_take hin
  have hread : ∀ a, (s.rcv.asmBuf.writeBytes 0 ((f.drop 11).take n)).read a =
      if a < n then byteAt f (11 + a) else s.rcv.asmBuf.read a := fun a => by
    simpa using Memory.read_writeBytes_frame hw hin 0 a
  have hoff : (BitVec.ofNat 32 (0 + ((f.drop 11).take n).length)).toNat = n := by
    rw [hlen, Nat.zero_add, BitVec.toNat_ofNat, Nat.mod_eq_of_lt]
    exact (hle.trans_lt (le32 f 7).isLt)
  refine ⟨t, ht, hone.mode, hone.fault, hone.expected, hone.snd, hone.occ, hone.rwin, ?_⟩
  rw [hrcv, hout, e]
  rcases Rcv.accumulate_deliver (r := s.rcv.setRwin s.cfg s.rcv.expected f) hw (off := 0) (bytes := (f.drop 11).take n)
    (size := le32 f 7) (by omega) with ⟨hlt, e'⟩ | ⟨heq, e'⟩ <;> rw [e']
  · exact ⟨hread, fun _ => ⟨rfl, rfl, hoff, rfl⟩, fun heq => by omega⟩
  · exact ⟨hread, fun hlt => by omega, fun _ => ⟨rfl, rfl, rfl, rfl⟩⟩

/-- Settles O38: the fragment's bytes are appended, and what the accumulator lacks decides whether the message goes. -/
theorem continuationExtendsTheMessage : Obligations.ContinuationExtendsTheMessage := by
  intro s f hs hm hf hv hseq hnum hgap hact hok n off
  have hw : s.rcv.asmBuf.wf := hs.rcvStores.asmCanonical
  obtain ⟨t, ht, hone, hrcv, hout⟩ := exec_rcvFrame_single hs hm ⟨hf, hv, hseq, hnum⟩ hgap hok
  obtain ⟨hin, hle, e⟩ := Rcv.consume_next (r := s.rcv.setRwin s.cfg s.rcv.expected f) hs.legal hf hact hok
  have hle : off + n ≤ s.rcv.asmSize.toNat := hle
  have e : (s.rcv.setRwin s.cfg s.rcv.expected f).consume s.cfg f = (Rcv.accumulate (s.rcv.setRwin s.cfg s.rcv.expected f)
    off ((f.drop 7).take n) s.rcv.asmSize).deliverIfComplete := e
  have hlen : ((f.drop 7).take n).length = n := length_drop_take hin
  have hread := Memory.read_writeBytes_frame hw hin off
  have hoff : (BitVec.ofNat 32 (off + ((f.drop 7).take n).length)).toNat = off + n := by
    rw [hlen, BitVec.toNat_ofNat, Nat.mod_eq_of_lt]
    exact (hle.trans_lt s.rcv.asmSize.isLt)
  refine ⟨t, ht, hone.mode, hone.fault, hone.expected, hone.snd, hone.occ, hone.rwin, ?_⟩
  rw [hrcv, hout, e]
  rcases Rcv.accumulate_deliver (r := s.rcv.setRwin s.cfg s.rcv.expected f) hw (off := off) (bytes := (f.drop 7).take n)
    (size := s.rcv.asmSize) (by omega) with ⟨hlt, e'⟩ | ⟨heq, e'⟩ <;> rw [e']
  · exact ⟨hread, fun _ => ⟨rfl, rfl, hoff, rfl⟩, fun heq => by omega⟩
  · exact ⟨hread, fun hlt => by omega, fun _ => ⟨rfl, rfl, rfl, rfl⟩⟩

end Sys2Proof.Machine
end

section
/-! `RxMalformed` (43_receiver.md R215, 60_exceptions.md R258): the frame in hand, a frame met later in the drain, and
that nothing else halts the receiver. -/

namespace Sys2Proof.Machine

/-- The receiver with other flags. -/
def Rcv.withOcc (r : Rcv) (occ : Store Bool) : Rcv := { r with occ := occ }

theorem Rcv.deliverIfComplete_withOcc (r : Rcv) (o : Store Bool) :
    (r.withOcc o).deliverIfComplete =
      ⟨r.deliverIfComplete.unit.withOcc o, r.deliverIfComplete.out, r.deliverIfComplete.raised⟩ := by
  unfold Rcv.deliverIfComplete
  rw [show (r.withOcc o).asmOff = r.asmOff from rfl, show (r.withOcc o).asmSize = r.asmSize from rfl]
  split <;> rfl

/-- CONSUME neither reads nor writes a flag (43_receiver.md R215). -/
theorem Rcv.consume_withOcc {c : Config} {r : Rcv} {g : Frame} (o : Store Bool) (hok : ¬ Malformed c r g) :
    (r.withOcc o).consume c g =
      ⟨(r.consume c g).unit.withOcc o, (r.consume c g).out, (r.consume c g).raised⟩ := by
  have hnone := (r.consume_raised_iff c g).2 hok
  have hnone' := ((r.withOcc o).consume_raised_iff c g).2 hok
  have hfit : ¬ c.maxPayload < (frmParse g).plen.toNat := fun h => hok (.inl h)
  unfold Rcv.consume at hnone hnone' ⊢
  simp only [if_neg hfit, show (r.withOcc o).asmActive = r.asmActive from rfl] at hnone hnone' ⊢
  cases hact : r.asmActive with
  | true =>
    simp only [hact, if_true] at hnone hnone' ⊢
    rcases r.consumeNext_cases (frmParse g) with ⟨-, e⟩ | ⟨-, e⟩
    · rw [e] at hnone
      cases hnone
    · rcases (r.withOcc o).consumeNext_cases (frmParse g) with ⟨-, e'⟩ | ⟨-, e'⟩
      · rw [e'] at hnone'
        cases hnone'
      · rw [e, e']
        exact Rcv.deliverIfComplete_withOcc { r.asmWrite r.asmOff.toNat _ with asmOff := _ } o
  | false =>
    simp only [hact, Bool.false_eq_true, if_false] at hnone hnone' ⊢
    rcases r.consumeFirst_cases c (frmParse g) with e | ⟨-, -, -, -, e⟩
    · rw [e] at hnone
      cases hnone
    · rcases (r.withOcc o).consumeFirst_cases c (frmParse g) with e' | ⟨-, -, -, -, e'⟩
      · rw [e'] at hnone'
        cases hnone'
      · rw [e, e']
        exact Rcv.deliverIfComplete_withOcc { r.asmWrite 0 _ with asmSize := _, asmOff := _, asmActive := true } o

/-- With the flag of `e` cleared a run of passes is the run without it cleared, up to that flag: no frame it takes is
the one of that slot (43_receiver.md R214). -/
theorem Rcv.Passes.of_setOcc {c : Config} {e : Word} {n : Nat} {r' v' : Rcv} {out : List Action}
    (h : Rcv.Passes c n r' out v') {r : Rcv} (hw : Store.wf false r.occ) (hr : r' = r.setOcc c e false) :
    ∃ v, Rcv.Passes c n r out v ∧ v' = v.setOcc c e false := by
  induction h generalizing r with
  | stay r' => exact ⟨r, .stay r, hr⟩
  | @turn n r' v' out hocc hok rest ih =>
    subst hr
    have hread : Store.read false (Store.write false r.occ (slotOf c e) false) (slotOf c r.expected) = true := hocc
    rw [Store.read_write hw] at hread
    split at hread
    case isTrue => cases hread
    case isFalse hslot =>
      have hok' : ¬ Malformed c (r.setOcc c r.expected false) (r.rwinAt c r.expected) := hok
      have htake : (r.setOcc c e false).takeExpected c =
          ⟨(r.takeExpected c).unit.withOcc
            (Store.write false (Store.write false r.occ (slotOf c e) false) (slotOf c r.expected) false),
            (r.takeExpected c).out, (r.takeExpected c).raised⟩ :=
        Rcv.consume_withOcc _ hok'
      have hpass : (r.setOcc c e false).pass c = (r.pass c).setOcc c e false := by
        obtain ⟨-, -, -, hpocc, -⟩ := r.pass_fields hok
        rw [Rcv.pass, htake]
        show (r.pass c).withOcc
          (Store.write false (Store.write false r.occ (slotOf c e) false) (slotOf c r.expected) false) =
            (r.pass c).withOcc (Store.write false (r.pass c).occ (slotOf c e) false)
        rw [hpocc, Store.write_comm hw (Ne.symm hslot)]
      obtain ⟨v, hv, e'⟩ := ih (r := r.pass c) ((r.pass_fields hok).2.2.2.1 ▸ Store.write_wf hw _ _) hpass
      rw [htake]
      exact ⟨v, .turn hread hok hv, e'⟩

/-- A run of passes emits deliveries alone. -/
theorem Rcv.Passes.deliveries {c : Config} {n : Nat} {r v : Rcv} {out : List Action} (h : Rcv.Passes c n r out v)
    {a : Action} (ha : a ∈ out) : ∃ len data, a = .deliverMessage len data := by
  induction h with
  | stay r => cases ha
  | @turn n r v out _ _ _ ih =>
    rcases List.mem_append.1 ha with ha | ha
    · rcases (r.setOcc c r.expected false).consume_out c (r.rwinAt c r.expected) with hout | ⟨len, data, hout⟩ <;>
        rw [Rcv.takeExpected, hout] at ha
      · cases ha
      · exact ⟨len, data, List.mem_singleton.1 ha⟩
    · exact ih ha

/-- A malformed frame numbered `expected` is stored, its flag cleared, and refused (43_receiver.md R214, R215). -/
theorem Rcv.TakesNext.onFrame_malformed {c : Config} (hc : c.legal = true) {r : Rcv} {f : Frame}
    (h : r.TakesNext c f) (hst : r.StoreInv c) (hr : r.Inv c) (hm : Malformed c r f) :
    r.onFrame c f = ⟨r.setRwin c r.expected f, [], some r.malformed⟩ := by
  obtain ⟨k, hk⟩ := Nat.exists_eq_succ_of_ne_zero (show c.window ≠ 0 by have := (legal_bounds hc).2.2.1; omega)
  obtain ⟨hat, hocc⟩ := Rcv.store_at hst r.expected f
  have hm' : Malformed c (r.store c r.expected f) ((r.store c r.expected f).rwinAt c r.expected) := by
    rw [hat]
    exact hm
  rw [h.onFrame hc, Rcv.acceptFrame, if_pos rfl, hk, Nat.succ_eq_add_one, Rcv.drain_of_malformed hocc hm',
    ← Rcv.store_setOcc hst hr]
  rfl

/-- Clearing the flag of a buffered number keeps R34. -/
theorem Rcv.Inv.setOcc_false {c : Config} {r : Rcv} (hst : r.StoreInv c) (hr : r.Inv c) (e : Word) :
    (r.setOcc c e false).Inv c := by
  have hread : ∀ i, Store.read false (r.setOcc c e false).occ i = true → Store.read false r.occ i = true := fun i hi => by
    rw [Rcv.setOcc_occ, Store.read_write hst.occCanonical] at hi
    split at hi
    · cases hi
    · exact hi
  have hgap := hr.gap
  refine ⟨Bool.eq_false_iff.mpr fun h => ?_, fun i hi => hr.buffered i (hread i hi), hr.active, hr.idle⟩
  rw [Rcv.occAt, show Store.read false r.occ (slotOf c r.expected) = true from hread _ h] at hgap
  cases hgap

/-- A frame buffered under a number the run has not passed is still buffered. -/
theorem Rcv.TakesNext.still_buffered {c : Config} (hc : c.legal = true) {r v : Rcv} {f : Frame} {n : Nat}
    {out : List Action} (h : r.TakesNext c f) (hst : r.StoreInv c) (hr : r.Inv c)
    (hpass : Rcv.Passes c n (r.store c r.expected f) out v) {e : Word} (hv : v.expected = e)
    (hgt : r.expected.toNat < e.toNat) (hlt : e.toNat < r.expected.toNat + c.window) (hocc : r.occAt c e = true) :
    v.occAt c v.expected = true ∧ v.rwinAt c v.expected = r.rwinAt c e := by
  subst hv
  obtain ⟨hexp, hdrained⟩ := h.drained hc hst hr hpass
  have hne : slotOf c v.expected ≠ slotOf c r.expected := fun he =>
    hgt.ne' (eq_of_mod_eq_of_lt hgt.le (by omega) he)
  refine ⟨?_, ?_⟩
  · refine (hdrained.other _ (fun m hge hm he => hm.ne ?_) hne).trans hocc
    exact (eq_of_mod_eq_of_lt hm.le (by omega) he.symm).symm
  · rw [Rcv.rwinAt, hpass.mode.2.2]
    exact Store.read_write_other hne f

/-- A run that, with the flag of `e` cleared, stops at `e`, meets the frame buffered there and refuses it if it is
malformed (43_receiver.md R214, R215). -/
theorem Rcv.TakesNext.onFrame_malformed_later {c : Config} (hc : c.legal = true) {r v' : Rcv} {f : Frame} {n : Nat}
    {out : List Action} {e : Word} (h : r.TakesNext c f) (hst : r.StoreInv c) (hr : r.Inv c)
    (hgt : r.expected.toNat < e.toNat) (hlt : e.toNat < r.expected.toNat + c.window) (hocc : r.occAt c e = true)
    (hpass : Rcv.Passes c n ((r.setOcc c e false).store c r.expected f) out v') (hv' : v'.expected = e)
    (hm : Malformed c v' (r.rwinAt c e)) :
    r.onFrame c f = ⟨v', out, some ⟨.rxMalformed, e⟩⟩ := by
  have hne : slotOf c e ≠ slotOf c r.expected := fun he => hgt.ne' (eq_of_mod_eq_of_lt hgt.le (by omega) he)
  have hstore : (r.setOcc c e false).store c r.expected f = (r.store c r.expected f).setOcc c e false := by
    simp only [Rcv.store, Rcv.setRwin, Rcv.setOcc]
    rw [Store.write_comm hst.occCanonical hne]
  obtain ⟨v, hrun, rfl⟩ := hpass.of_setOcc (Store.write_wf hst.occCanonical _ _) hstore
  have hv : v.expected = e := hv'
  obtain ⟨hset, hframe⟩ := h.still_buffered hc hst hr hrun hv hgt hlt hocc
  obtain ⟨hexp, -⟩ := h.drained hc hst hr hrun
  obtain ⟨k, hk⟩ := Nat.exists_eq_add_of_lt (show n < c.window by rw [hv] at hexp; omega)
  have hdrain := hrun.drain (k + 1)
  rw [Rcv.drain_of_malformed hset (hframe ▸ hm), show k + 1 + n = c.window by omega] at hdrain
  rw [h.onFrame hc, Rcv.acceptFrame, if_pos rfl, hdrain, hv]
  simp [Rcv.malformed, hv]

/-- What a receiver halted by RCV.FRAME shows (60_exceptions.md R258, R262). -/
theorem Rcv.TakesNext.halted {c : Config} (hc : c.legal = true) {r : Rcv} {f : Frame} {x : Raise}
    (h : r.TakesNext c f) (hst : r.StoreInv c) (hr : r.Inv c) (hx : (r.onFrame c f).raised = some x) :
    let v := (r.onFrame c f).unit
    x = ⟨.rxMalformed, v.expected⟩ ∧ v.occAt c v.expected = false ∧ le32 (v.rwinAt c v.expected) 2 = v.expected ∧
      Malformed c v (v.rwinAt c v.expected) ∧ ∀ a ∈ (r.onFrame c f).out, ∃ len data, a = .deliverMessage len data := by
  obtain ⟨n, out, v, hn, hpass, hinv, ⟨-, -, e⟩ | ⟨hocc, hm, e⟩⟩ := h.onFrame_cases hc hst hr <;> rw [e] at hx
  · cases hx
  · cases hx
    have hseq := (hinv.held.seq_expected (Nat.sub_le _ _) hocc).1
    rw [e]
    exact ⟨rfl, Store.read_write_same hinv.sound.stores.occCanonical _ _, BitVec.eq_of_toNat_eq hseq, hm,
      fun a ha => hpass.deliveries ha⟩

/-- Settles O39: CONSUME refuses a malformed frame where DRAIN meets it, and RCV.FRAME raises nothing else. -/
theorem malformedFrameHaltsTheReceiver : Obligations.MalformedFrameHaltsTheReceiver := by
  intro s f hs hm hf
  have hst := hs.rcvStores
  have hr := hs.rcv hm
  refine ⟨fun hv hseq hnum hmal => ?_, fun e t hv hseq hgt hlt hocc h hready hexp hmal => ?_, fun t h hhalted => ?_⟩
  · rw [exec_rcvFrame_of_ready hm hf, Rcv.TakesNext.onFrame_malformed hs.legal ⟨hf, hv, hseq, hnum⟩ hst hr hmal]
    rfl
  · have htakes : s.rcv.TakesNext s.cfg f := ⟨hf, hv, hseq, by rintro he; rw [he] at hgt; bv_omega⟩
    have htakes' : (s.rcv.setOcc s.cfg e false).TakesNext s.cfg f := ⟨hf, hv, hseq, htakes.number⟩
    obtain ⟨-, rfl⟩ := exec_rcvFrame_ready (s := { s with rcv := s.rcv.setOcc s.cfg e false }) hm h
    obtain ⟨hnone, hunit, hout⟩ := endRcv_ready hready
    obtain ⟨n, out, v, -, hpass, -, ⟨-, -, he⟩ | ⟨-, -, he⟩⟩ :=
      htakes'.onFrame_cases hs.legal (hst.setOcc hs.legal e false) (hr.setOcc_false hst e)
    · simp only [he] at hexp hmal hunit hout ⊢
      have hlater := htakes.onFrame_malformed_later hs.legal hst hr hgt hlt hocc hpass hexp hmal
      rw [exec_rcvFrame_of_ready hm hf, hlater, hout, List.dropLast_concat]
      rfl
    · rw [he] at hnone
      cases hnone
  · obtain ⟨-, rfl⟩ := exec_rcvFrame_ready hm h
    cases hx : (s.rcv.onFrame s.cfg f).raised with
    | none =>
      rw [State.endRcv_rcv, hx, (s.rcv.onFrame_runFrame s.cfg f).mode, hm] at hhalted
      cases hhalted
    | some x =>
      rcases Rcv.onFrame_or_takesNext hf with ⟨-, e⟩ | ⟨-, -, e⟩ | ⟨-, -, -, -, e⟩ | htakes
      · rw [e] at hx
        cases hx
      · rw [e] at hx
        cases hx
      · rw [e] at hx
        cases hx
      · obtain ⟨rfl, hclear, hseq, hmal, hdeliver⟩ := htakes.halted hs.legal hst hr hx
        rw [State.endRcv_outbox, State.endRcv_rcv, hx]
        exact ⟨rfl, hclear, hseq, hmal, _, rfl, hdeliver⟩

end Sys2Proof.Machine
end

section
/-! WINDOW_FILL as a run of cuts (42_sender.md R176): each cuts one fragment from the queue's head into the next slot of
the window. A run ends where there is nothing to cut or no room, or where no number is left. -/

namespace Sys2Proof.Machine

/-- `n` iterations of WINDOW_FILL's loop that each cut a fragment. -/
inductive Snd.Cuts (c : Config) : Nat → Snd → Snd → Prop where
  | stay (u : Snd) : Snd.Cuts c 0 u u
  | turn {n : Nat} {u v : Snd} {m : QEntry} {ms : List QEntry} (hq : u.q = m :: ms) (hroom : u.nbuffered < c.window)
      (hnum : u.nextSeq ≠ noneYet) (rest : Snd.Cuts c n (u.fillOne c m) v) : Snd.Cuts c (n + 1) u v

/-- The loop runs its cuts to an empty queue or a full window, or to the reserved number: as many turns as there is
room are enough (42_sender.md R176). -/
theorem Snd.fillLoop_ends {c : Config} {k : Nat} {u : Snd} (hk : c.window ≤ u.nbuffered + k) :
    ∃ n v, Snd.Cuts c n u v ∧
      (((v.q = [] ∨ c.window ≤ v.nbuffered) ∧ Snd.fillLoop c k u = (v, none)) ∨
       (v.q ≠ [] ∧ v.nbuffered < c.window ∧ v.nextSeq = noneYet ∧
        Snd.fillLoop c k u = (v, some ⟨.seqExhausted, noneYet⟩))) := by
  induction k generalizing u with
  | zero => exact ⟨0, u, .stay u, .inl ⟨.inr hk, rfl⟩⟩
  | succ k ih =>
    rcases u.fillLoop_step c k with ⟨hstop, e⟩ | ⟨m, ms, hq, hroom, ⟨hnum, e⟩ | ⟨hnum, e⟩⟩
    · exact ⟨0, u, .stay u, .inl ⟨hstop, e⟩⟩
    · exact ⟨0, u, .stay u, .inr ⟨by simp [hq], hroom, hnum, by rw [e, hnum]⟩⟩
    · have hk' : c.window ≤ (u.fillOne c m).nbuffered + k := by
        rw [(u.fillOne_window c m).2.1]
        omega
      obtain ⟨n, v, hcuts, hend⟩ := ih hk'
      exact ⟨n + 1, v, .turn hq hroom hnum hcuts, e ▸ hend⟩

/-- WINDOW_FILL by its run of cuts: TRANSMIT after it, or `SeqExhausted` in place of it (42_sender.md R176, R177). -/
theorem Snd.windowFill_ends (c : Config) (u : Snd) :
    ∃ n v, Snd.Cuts c n u v ∧
      (((v.q = [] ∨ c.window ≤ v.nbuffered) ∧
        u.windowFill c = ⟨{ v with nextToTransmit := v.nextSeq }, sends c v v.nextToTransmit v.nextSeq, none⟩) ∨
       (v.q ≠ [] ∧ v.nbuffered < c.window ∧ v.nextSeq = noneYet ∧
        u.windowFill c = ⟨v, [], some ⟨.seqExhausted, noneYet⟩⟩)) := by
  obtain ⟨n, v, hcuts, ⟨hstop, e⟩ | ⟨hq, hroom, hnum, e⟩⟩ := Snd.fillLoop_ends (c := c) (k := c.window) (u := u) (by omega)
  · refine ⟨n, v, hcuts, .inl ⟨hstop, ?_⟩⟩
    rw [Snd.windowFill, e, ← Snd.map_pendingFrames]
    rfl
  · exact ⟨n, v, hcuts, .inr ⟨hq, hroom, hnum, by rw [Snd.windowFill, e]⟩⟩

/-! ### What a run of cuts keeps -/

theorem Snd.Cuts.sameOutside {c : Config} {n : Nat} {u v : Snd} (h : Snd.Cuts c n u v) :
    u.SameOutside v ∧ v.nextToTransmit = u.nextToTransmit := by
  induction h with
  | stay u => exact ⟨.refl u, rfl⟩
  | turn _ _ _ _ ih => exact ⟨(Snd.fillOne_sameOutside _ _ _).trans ih.1, ih.2.trans (Snd.fillOne_window _ _ _).2.2.1⟩

/-- A run of `n` cuts assigns `n` numbers, without wrapping: `0xFFFFFFFF` is never one (42_sender.md R176). -/
theorem Snd.Cuts.counted {c : Config} {n : Nat} {u v : Snd} (h : Snd.Cuts c n u v) :
    v.nextSeq.toNat = u.nextSeq.toNat + n ∧ v.nbuffered = u.nbuffered + n := by
  induction h with
  | stay u => exact ⟨rfl, rfl⟩
  | @turn n u v m ms _ _ hnum _ ih =>
    obtain ⟨hseq, hcount, -, -⟩ := u.fillOne_window c m
    refine ⟨?_, by rw [ih.2, hcount, Nat.add_right_comm, Nat.add_assoc]⟩
    rw [ih.1, hseq]
    bv_omega

/-- The queue loses entries at its head alone. -/
theorem Snd.Cuts.queue {c : Config} {n : Nat} {u v : Snd} (h : Snd.Cuts c n u v) : v.q <:+ u.q := by
  induction h with
  | stay u => exact List.suffix_refl _
  | @turn n u v m ms _ _ _ _ ih =>
    refine ih.trans ?_
    rcases u.fillOne_cases c m with ⟨-, hq, -, -⟩ | ⟨-, hq, -, -⟩
    · exact hq ▸ List.tail_suffix _
    · exact hq ▸ List.suffix_refl _

/-- A slot of none of the numbers assigned keeps its frame. -/
theorem Snd.Cuts.win_other {c : Config} {n : Nat} {u v : Snd} (h : Snd.Cuts c n u v) {k : Nat}
    (hk : ∀ m, u.nextSeq.toNat ≤ m → m < u.nextSeq.toNat + n → m % c.window ≠ k) :
    Store.read (blankFrame c) v.win k = Store.read (blankFrame c) u.win k := by
  induction h with
  | stay u => rfl
  | @turn n u v m ms hq hroom hnum rest ih =>
    obtain ⟨hseq, -, -, hwin⟩ := u.fillOne_window c m
    have hsucc : (u.fillOne c m).nextSeq.toNat = u.nextSeq.toNat + 1 := by
      rw [hseq]
      bv_omega
    rw [ih fun j hge hlt => hk j (by omega) (by omega), hwin]
    exact Store.read_write_other (hk _ le_rfl (by omega)).symm _

theorem Snd.Cuts.fillInv {c : Config} (hc : c.legal = true) {n : Nat} {u v : Snd} (h : Snd.Cuts c n u v)
    (hu : u.FillInv c) : v.FillInv c := by
  induction h with
  | stay u => exact hu
  | turn hq hroom hnum _ ih => exact ih (hu.fillOne hc hq hroom hnum)

/-! ### SND.MSG -/

theorem exec_sndMsg_of_ready {s : State} {len : Word} {data : List Byte} (hm : s.snd.mode = .ready)
    (hdata : data.length = len.toNat) :
    exec (.sndMsg len data) s = .next (s.endSnd (s.snd.onMessage s.cfg len data)) :=
  guarded_of_ready (beq_iff_eq.2 hdata) hm

theorem Snd.onMessage_of_fits {c : Config} {u : Snd} {len : Word} {data : List Byte} (hlen : len.toNat ≤ c.msgMax)
    (hfull : u.q.length ≠ c.queueCap) : u.onMessage c len data = u.enqueue c len data := by
  rw [Snd.onMessage, if_neg hlen.not_gt, if_neg (show ¬ u.qCount = c.queueCap from hfull)]

/-- Settles O20: the two tests come before anything is written, in this order. -/
theorem sndMsgFaultsArePrecise : Obligations.SndMsgFaultsArePrecise := by
  refine fun s len data hm hdata => ⟨fun hlong => ?_, fun hlen hfull => ?_⟩
  · rw [exec_sndMsg_of_ready hm hdata, Snd.onMessage, if_pos hlong]
    rfl
  · rw [exec_sndMsg_of_ready hm hdata, Snd.onMessage, if_neg hlen.not_gt,
      if_pos (show s.snd.qCount = s.cfg.queueCap from hfull)]
    rfl

/-- Settles O21: with the timer running a message that passes the tests is appended and nothing more. -/
theorem messageWaitsBehindRunningTimer : Obligations.MessageWaitsBehindRunningTimer := by
  intro s len data hm hdata hlen hfull hrun
  rw [exec_sndMsg_of_ready hm hdata, Snd.onMessage_of_fits hlen hfull, Snd.enqueue, if_pos hrun]
  rfl

/-- The sender WINDOW_FILL starts from on a message at a stopped timer (42_sender.md R172). -/
def Snd.enqueued (u : Snd) (len : Word) (data : List Byte) : Snd :=
  { u with q := u.q ++ [⟨u.msgNext, len, data⟩], msgNext := u.msgNext + 1, tmrRun := true }

theorem Snd.onMessage_of_stopped {c : Config} {u : Snd} {len : Word} {data : List Byte} (hlen : len.toNat ≤ c.msgMax)
    (hfull : u.q.length ≠ c.queueCap) (hstop : u.tmrRun = false) :
    u.onMessage c len data = ⟨((u.enqueued len data).windowFill c).unit,
      .startTimer c.timeout :: ((u.enqueued len data).windowFill c).out,
      ((u.enqueued len data).windowFill c).raised⟩ := by
  rw [Snd.onMessage_of_fits hlen hfull, Snd.enqueue, if_neg (by simp [hstop])]
  rfl

theorem Snd.Inv.enqueued {c : Config} (hc : c.legal = true) {u : Snd} (hst : u.StoreInv c) (h : u.Inv c) {len : Word}
    {data : List Byte} (hdata : data.length = len.toNat) (hlen : len.toNat ≤ c.msgMax)
    (hfull : u.q.length ≠ c.queueCap) : (u.enqueued len data).FillInv c :=
  ⟨hst.congr rfl, (h.fillInv hst).queue.append hc hfull hdata hlen, (h.fillInv hst).window⟩

/-- With the timer stopped nothing is outstanding (10_state.md R30 (f)). -/
theorem Snd.Inv.nbuffered_of_stopped {c : Config} {u : Snd} (h : u.Inv c) (hstop : u.tmrRun = false) :
    u.nbuffered = 0 := by
  by_contra hne
  rw [h.timer.2 (Nat.pos_of_ne_zero hne)] at hstop
  cases hstop

/-- The step of SND.MSG at a stopped timer, by the fill. -/
theorem exec_sndMsg_of_stopped {s : State} {len : Word} {data : List Byte} {v : Snd} {out : List Action}
    {x : Option Raise} (hm : s.snd.mode = .ready) (hdata : data.length = len.toNat) (hlen : len.toNat ≤ s.cfg.msgMax)
    (hfull : s.snd.q.length ≠ s.cfg.queueCap) (hstop : s.snd.tmrRun = false)
    (e : (s.snd.enqueued len data).windowFill s.cfg = ⟨v, out, x⟩) :
    exec (.sndMsg len data) s = .next (s.endSnd ⟨v, .startTimer s.cfg.timeout :: out, x⟩) := by
  rw [exec_sndMsg_of_ready hm hdata, Snd.onMessage_of_stopped hlen hfull hstop, e]

/-- Away from the end of the sequence space a run of cuts that leaves room leaves a number too. -/
theorem Snd.Cuts.number_left {c : Config} {n : Nat} {u v : Snd} (h : Snd.Cuts c n u v)
    (hseq : u.nextSeq.toNat + c.window ≤ 0xFFFFFFFF) (hroom : v.nbuffered < c.window) : v.nextSeq ≠ noneYet := by
  obtain ⟨hnext, hcount⟩ := h.counted
  intro he
  have : v.nextSeq.toNat = 0xFFFFFFFF := by rw [he]; rfl
  omega

/-- Settles O23: the run of cuts starts with a message and an empty window, and leaves a number wherever it leaves
room. -/
theorem idleSenderFillsTheWindow : Obligations.IdleSenderFillsTheWindow := by
  intro s len data hs hm hstop hdata hlen hfull hseq
  have hu := hs.snd hm
  have hfill := hu.enqueued hs.legal hs.sndStores hdata hlen hfull
  obtain ⟨n, v, hcuts, ⟨hend, e⟩ | ⟨-, hroom, hnum, -⟩⟩ := (s.snd.enqueued len data).windowFill_ends s.cfg
  · obtain ⟨hsame, htransmit⟩ := hcuts.sameOutside
    obtain ⟨hnext, hcount⟩ := hcuts.counted
    have hbounded := (hcuts.fillInv hs.legal hfill).window.bounded
    have hpos : 0 < n := Nat.pos_of_ne_zero fun h0 => by
      subst h0
      cases hcuts
      rcases hend with hnil | hwin
      · simp [Snd.enqueued] at hnil
      · have hw : s.cfg.window ≤ s.snd.nbuffered := hwin
        have := (legal_bounds hs.legal).2.2.1
        rw [hu.nbuffered_of_stopped hstop] at hw
        omega
    have hnext' : v.nextSeq.toNat = s.snd.nextSeq.toNat + n := hnext
    refine ⟨_, exec_sndMsg_of_stopped hm hdata hlen hfull hstop e, hsame.mode.trans hm, hsame.tmrRun, hsame.msgNext,
      hsame.ackExpected, ?_, hend.imp_right fun h => Nat.le_antisymm hbounded h, ?_⟩
    · show s.snd.nextSeq.toNat < v.nextSeq.toNat
      omega
    · show _ :: sends s.cfg v v.nextToTransmit v.nextSeq = _
      rw [htransmit, show (s.snd.enqueued len data).nextToTransmit = s.snd.nextSeq from hu.transmitted]
      rfl
  · exact absurd hnum (hcuts.number_left hseq hroom)

/-! ### SND.ACKF -/

/-- The sender WINDOW_FILL starts from on an acknowledgment in range (42_sender.md R173). -/
def Snd.released (u : Snd) (ack : Word) : Snd :=
  { u with
    tmrRun := true
    nbuffered := u.nbuffered - (ack.toNat - u.ackExpected.toNat + 1)
    ackExpected := ack + 1 }

theorem Snd.onAck_of_in_range {c : Config} {u : Snd} {f : Frame} (hv : chkValidate c f = true)
    (hge : u.ackExpected.toNat ≤ (le32 f 2).toNat) (hlt : (le32 f 2).toNat < u.nextSeq.toNat) :
    u.onAck c f = u.acceptAck c (le32 f 2) := by
  have hin : u.ackInRange (frmParse f).seq = true := (u.ackInRange_iff _).2 ⟨hge, hlt⟩
  simp only [Snd.onAck, Snd.ackCondition, hv, hin]
  rfl

/-- Without a fault an acknowledgment ends with the stop test (42_sender.md R173). -/
theorem Snd.acceptAck_of_windowFill {c : Config} {u v : Snd} {ack : Word} {out : List Action}
    (e : (u.released ack).windowFill c = ⟨v, out, none⟩) :
    u.acceptAck c ack = ⟨{ v with tmrRun := v.ackExpected != v.nextSeq && v.tmrRun },
      .startTimer c.timeout :: out ++ (if v.ackExpected = v.nextSeq then [.stopTimer] else []), none⟩ := by
  have hcases := u.acceptAck_cases c ack
  rw [show ({ u with
      tmrRun := true
      nbuffered := u.nbuffered - (ack.toNat - u.ackExpected.toNat + 1)
      ackExpected := ack + 1 } : Snd) = u.released ack from rfl, e] at hcases
  rcases hcases with ⟨x, hx, -⟩ | ⟨-, hall, e'⟩ | ⟨-, hsome, e'⟩
  · cases hx
  · have hall : v.ackExpected = v.nextSeq := hall
    have hstop : (v.ackExpected != v.nextSeq) = false := by simp [hall]
    rw [e', if_pos hall, hstop, Bool.false_and]
    rfl
  · have hsome : v.ackExpected ≠ v.nextSeq := hsome
    rw [e', if_neg hsome, bne_iff_ne.2 hsome, Bool.true_and, List.append_nil]

theorem Snd.Inv.released {c : Config} {u : Snd} (hst : u.StoreInv c) (h : u.Inv c) {ack : Word}
    (hge : u.ackExpected.toNat ≤ ack.toNat) (hlt : ack.toNat < u.nextSeq.toNat) : (u.released ack).FillInv c :=
  ⟨hst.congr rfl, (h.fillInv hst).queue, (h.fillInv hst).window.release hge hlt⟩

/-- With nothing queued and everything transmitted WINDOW_FILL does nothing (42_sender.md R176). -/
theorem Snd.windowFill_of_idle {c : Config} {u : Snd} (hq : u.q = []) (ht : u.nextToTransmit = u.nextSeq) :
    u.windowFill c = ⟨u, [], none⟩ := by
  have hloop : Snd.fillLoop c c.window u = (u, none) := by
    cases c.window with
    | zero => rfl
    | succ k => simp [Snd.fillLoop, hq]
  have hnone : u.pendingFrames c = [] := by simp [Snd.pendingFrames, ht]
  have hsame : ({ u with nextToTransmit := u.nextSeq } : Snd) = u := by
    cases u
    cases ht
    rfl
  rw [Snd.windowFill, hloop]
  show (⟨{ u with nextToTransmit := u.nextSeq }, (u.pendingFrames c).map .sendFrame, none⟩ : Progress Snd) = _
  rw [hsame, hnone]
  rfl

/-- Settles O25: the fill finds nothing to do, and the stop test compares the released number with the next one. -/
theorem ackReleasesItsFrames : Obligations.AckReleasesItsFrames := by
  intro s f hm hf hv hq ht hge hlt
  have hfill : (s.snd.released (le32 f 2)).windowFill s.cfg = ⟨s.snd.released (le32 f 2), [], none⟩ :=
    Snd.windowFill_of_idle hq ht
  rw [exec_sndAckf_of_ready hm hf, Snd.onAck_of_in_range hv hge hlt, Snd.acceptAck_of_windowFill hfill]
  simp only [State.endSnd, State.settle, Snd.released, Bool.and_true, List.cons_append, List.nil_append]
  rfl

/-- Settles O26: the run of cuts starts with the released frames' room, leaves a number wherever it leaves room, and the
stop test comes after it. -/
theorem ackSlidesAndRefillsTheWindow : Obligations.AckSlidesAndRefillsTheWindow := by
  intro s f hs hm hf hv hge hlt hseq
  have hu := hs.snd hm
  have hfill := hu.released hs.sndStores hge hlt
  obtain ⟨n, v, hcuts, ⟨hend, e⟩ | ⟨-, hroom, hnum, -⟩⟩ := (s.snd.released (le32 f 2)).windowFill_ends s.cfg
  · obtain ⟨hsame, htransmit⟩ := hcuts.sameOutside
    obtain ⟨hnext, -⟩ := hcuts.counted
    have hbounded := (hcuts.fillInv hs.legal hfill).window.bounded
    have hnext' : v.nextSeq.toNat = s.snd.nextSeq.toNat + n := hnext
    have hack : v.ackExpected = le32 f 2 + 1 := hsame.ackExpected
    have hrun : v.tmrRun = true := hsame.tmrRun
    rw [exec_sndAckf_of_ready hm hf, Snd.onAck_of_in_range hv hge hlt, Snd.acceptAck_of_windowFill e]
    refine ⟨_, rfl, hsame.mode.trans hm, ?_, hsame.msgNext, ?_, hend.imp_right fun h => Nat.le_antisymm hbounded h, ?_, ?_⟩
    · show v.ackExpected.toNat = _
      rw [hack]
      bv_omega
    · show s.snd.nextSeq.toNat ≤ v.nextSeq.toNat
      omega
    · show (v.ackExpected != v.nextSeq && v.tmrRun) = true ↔ v.ackExpected ≠ v.nextSeq
      rw [hrun, Bool.and_true, bne_iff_ne]
    · show _ :: sends s.cfg v v.nextToTransmit v.nextSeq ++ _ = _
      rw [htransmit, show (s.snd.released (le32 f 2)).nextToTransmit = s.snd.nextSeq from hu.transmitted]
      rfl
  · exact absurd hnum (hcuts.number_left hseq hroom)

end Sys2Proof.Machine
end

section
/-! The frame of the SND operations, and the frames SND sends: built by FRM.DATA, and new but for a timeout
(42_sender.md R181). -/

namespace Sys2Proof.Machine

/-! ### What the operations leave unchanged -/

/-- The frame of a fill: the registers outside it, the queue but for entries at its head, and every slot but those of
the numbers assigned (42_sender.md R176). -/
structure Snd.FillFrame (c : Config) (u v : Snd) : Prop where
  outside : u.SameOutside v
  queue : v.q <:+ u.q
  monotone : u.nextSeq.toNat ≤ v.nextSeq.toNat
  window : ∀ k, (∀ n, u.nextSeq.toNat ≤ n → n < v.nextSeq.toNat → n % c.window ≠ k) →
    Store.read (blankFrame c) v.win k = Store.read (blankFrame c) u.win k

theorem Snd.Cuts.fillFrame {c : Config} {n : Nat} {u v : Snd} (h : Snd.Cuts c n u v) : u.FillFrame c v :=
  have hnext := h.counted.1
  ⟨h.sameOutside.1, h.queue, by omega, fun _ hk => h.win_other fun m hge hlt => hk m hge (by omega)⟩

theorem Snd.windowFill_frame (c : Config) (u : Snd) : u.FillFrame c (u.windowFill c).unit := by
  obtain ⟨n, v, hcuts, ⟨-, e⟩ | ⟨-, -, -, e⟩⟩ := u.windowFill_ends c <;> rw [e]
  · obtain ⟨⟨hmode, hfault, hack, hmsg, hrun⟩, hq, hseq, hwin⟩ := hcuts.fillFrame
    exact ⟨⟨hmode, hfault, hack, hmsg, hrun⟩, hq, hseq, hwin⟩
  · exact hcuts.fillFrame

/-- What an event of a READY sender leaves unchanged (42_sender.md sections 2 to 4): the slots of other numbers, and of
the queue and the message counter what the event does not say. -/
structure Snd.EventFrame (c : Config) (u v : Snd) (i : Instr) : Prop where
  monotone : u.nextSeq.toNat ≤ v.nextSeq.toNat
  window : ∀ k, (∀ n, u.nextSeq.toNat ≤ n → n < v.nextSeq.toNat → n % c.window ≠ k) →
    Store.read (blankFrame c) v.win k = Store.read (blankFrame c) u.win k
  timeout : i = .sndTimeout → v.win = u.win
  message : ∀ len data, i = .sndMsg len data → v.ackExpected = u.ackExpected ∧
    ((v.q = u.q ∧ v.msgNext = u.msgNext) ∨
      (v.q <:+ u.q ++ [⟨u.msgNext, len, data⟩] ∧ v.msgNext = u.msgNext + 1))
  ack : ∀ f, i = .sndAckf f → v.msgNext = u.msgNext ∧ v.q <:+ u.q ∧
    (v.ackExpected = u.ackExpected ∨ v.ackExpected = le32 f 2 + 1)

theorem Snd.EventFrame.refl (c : Config) (u : Snd) (i : Instr) : u.EventFrame c u i :=
  ⟨le_rfl, fun _ _ => rfl, fun _ => rfl, fun _ _ _ => ⟨rfl, .inl ⟨rfl, rfl⟩⟩,
    fun _ _ => ⟨rfl, List.suffix_refl _, .inl rfl⟩⟩

theorem Snd.onMessage_eventFrame (c : Config) (u : Snd) (len : Word) (data : List Byte) :
    u.EventFrame c (u.onMessage c len data).unit (.sndMsg len data) := by
  rcases u.onMessage_cases c len data with ⟨-, e⟩ | ⟨-, -, e⟩ | ⟨-, -, -, e⟩ | ⟨-, -, -, e⟩ <;> rw [e]
  · exact .refl c u _
  · exact .refl c u _
  · refine ⟨le_rfl, fun _ _ => rfl, nofun, fun len' data' hi => ?_, nofun⟩
    cases hi
    exact ⟨rfl, .inr ⟨List.suffix_refl _, rfl⟩⟩
  · obtain ⟨hout, hq, hseq, hwin⟩ := (u.enqueued len data).windowFill_frame c
    refine ⟨hseq, hwin, nofun, fun len' data' hi => ?_, nofun⟩
    cases hi
    exact ⟨hout.ackExpected, .inr ⟨hq, hout.msgNext⟩⟩

theorem Snd.onAck_eventFrame (c : Config) (u : Snd) (f : Frame) :
    u.EventFrame c (u.onAck c f).unit (.sndAckf f) := by
  unfold Snd.onAck
  rcases u.ackCondition_cases c f with ⟨-, e⟩ | ⟨-, -, e⟩ | ⟨-, -, e⟩ <;> simp only [e]
  · exact .refl c u _
  · exact .refl c u _
  · obtain ⟨hout, hq, hseq, hwin⟩ := (u.released (le32 f 2)).windowFill_frame c
    have hack : ∀ g, Instr.sndAckf f = .sndAckf g →
        ((u.released (le32 f 2)).windowFill c).unit.msgNext = u.msgNext ∧
        ((u.released (le32 f 2)).windowFill c).unit.q <:+ u.q ∧
        (((u.released (le32 f 2)).windowFill c).unit.ackExpected = u.ackExpected ∨
          ((u.released (le32 f 2)).windowFill c).unit.ackExpected = le32 g 2 + 1) := fun g hg => by
      cases hg
      exact ⟨hout.msgNext, hq, .inr hout.ackExpected⟩
    rcases u.acceptAck_cases c (frmParse f).seq with ⟨x, -, e⟩ | ⟨-, -, e⟩ | ⟨-, -, e⟩ <;> rw [e]
    · exact ⟨hseq, hwin, nofun, nofun, hack⟩
    · exact ⟨hseq, hwin, nofun, nofun, hack⟩
    · exact ⟨hseq, hwin, nofun, nofun, hack⟩

theorem Snd.Runs.eventFrame {c : Config} {u : Snd} {i : Instr} {p : Progress Snd} (h : u.Runs c i p) :
    u.EventFrame c p.unit i := by
  cases h with
  | message _ => exact u.onMessage_eventFrame c _ _
  | ack _ => exact u.onAck_eventFrame c _
  | timeout _ => exact ⟨le_rfl, fun _ _ => rfl, fun _ => rfl, nofun, nofun⟩

/-- Fault entry writes the mode and the fault register alone (60_exceptions.md R262). -/
theorem Snd.EventFrame.endSnd {s : State} {p : Progress Snd} {i : Instr} (h : s.snd.EventFrame s.cfg p.unit i) :
    s.snd.EventFrame s.cfg (s.endSnd p).snd i := by
  rw [State.endSnd_snd]
  cases p.raised with
  | none => exact h
  | some x => exact ⟨h.monotone, h.window, h.timeout, h.message, h.ack⟩

/-- Settles O29: INIT and FINAL do not write the window, and each event writes what its frame allows. -/
theorem senderOperationsFrame : Obligations.SenderOperationsFrame := by
  intro i s t hi h
  rcases exec_snd_cases hi h with ⟨rfl, rfl⟩ | ⟨-, rfl⟩ | ⟨-, p, hrun, rfl⟩ | ⟨rfl, -, rfl⟩
  · exact ⟨rfl, rfl, rfl, rfl, rfl, fun _ => rfl, nofun, nofun, fun hne => absurd rfl hne⟩
  · obtain ⟨hseq, hwin, -, hmsg, hack⟩ := Snd.EventFrame.refl s.cfg s.snd i
    refine ⟨rfl, rfl, rfl, rfl, rfl, fun _ => rfl, fun len data he => ?_, fun f he => ?_, fun _ _ => ⟨hseq, hwin⟩⟩
    · obtain ⟨ha, hq⟩ := hmsg len data he
      exact ⟨ha, rfl, hq⟩
    · obtain ⟨hm, hq⟩ := hack f he
      exact ⟨hm, rfl, hq⟩
  · obtain ⟨hseq, hwin, htimeout, hmsg, hack⟩ := hrun.eventFrame.endSnd
    refine ⟨s.endSnd_rcv p, s.endSnd_cfg p, s.endSnd_inbox p, s.endSnd_rcvFree p, s.endSnd_result p, ?_,
      fun len data he => ?_, fun f he => ?_, fun _ _ => ⟨hseq, hwin⟩⟩
    · rintro (rfl | rfl | rfl)
      · cases hrun
      · exact htimeout rfl
      · cases hrun
    · obtain ⟨ha, hq⟩ := hmsg len data he
      exact ⟨ha, s.endSnd_sndFree p, hq⟩
    · obtain ⟨hm, hq⟩ := hack f he
      exact ⟨hm, s.endSnd_sndFree p, hq⟩
  · exact ⟨rfl, rfl, rfl, rfl, rfl, fun _ => rfl, nofun, nofun, fun _ hne => absurd rfl hne⟩

/-! ### What is sent -/

theorem sendFrame_of_mem_started {f : Frame} {d : Nat} {out : List Action}
    (h : Action.sendFrame f ∈ .startTimer d :: out) : Action.sendFrame f ∈ out :=
  (List.mem_cons.1 h).resolve_left nofun

theorem sendFrame_of_mem_stopped {f : Frame} {out : List Action} (h : Action.sendFrame f ∈ out ++ [.stopTimer]) :
    Action.sendFrame f ∈ out :=
  (List.mem_append.1 h).resolve_right fun h => by simp at h

/-- A frame of the window: built by FRM.DATA under a number from `a` up to but not including `b`. -/
structure BuiltBetween (c : Config) (a b : Nat) (f : Frame) : Prop where
  lower : a ≤ (le32 f 2).toNat
  upper : (le32 f 2).toNat < b
  built : ∃ (plen : Byte) (payload : List Byte), plen.toNat ≤ c.maxPayload ∧ payload.length = plen.toNat ∧
    f = frmData c (le32 f 2) plen payload

/-- Stored frames that are sent are those of their numbers (10_state.md R30 (g)). -/
theorem Snd.WindowInv.built_of_mem_sends {c : Config} {u : Snd} {a : Word} {f : Frame}
    (h : Snd.WindowInv c u.ackExpected u.nextSeq u.nbuffered u.win) (ha : u.ackExpected.toNat ≤ a.toNat)
    (hf : Action.sendFrame f ∈ sends c u a u.nextSeq) : BuiltBetween c a.toNat u.nextSeq.toNat f := by
  obtain ⟨k, hk, he⟩ := List.mem_map.1 hf
  cases he
  have hk := List.mem_range.1 hk
  have hj : (BitVec.ofNat 32 (a.toNat + k)).toNat = a.toNat + k := by
    rw [BitVec.toNat_ofNat, Nat.mod_eq_of_lt]
    have := u.nextSeq.isLt
    omega
  obtain ⟨⟨plen, payload, hfit, hlen, hframe⟩, hseq, -⟩ :=
    h.stored (BitVec.ofNat 32 (a.toNat + k)) (by omega) (by omega)
  rw [slotOf, hj] at hframe hseq
  have hseq' : le32 (Store.read (blankFrame c) u.win ((a.toNat + k) % c.window)) 2 = BitVec.ofNat 32 (a.toNat + k) := hseq
  refine ⟨?_, ?_, plen, payload, hfit, hlen, ?_⟩
  · rw [hseq', hj]
    omega
  · rw [hseq', hj]
    omega
  · rw [hseq', hframe]

/-- A fill sends frames it has just numbered. -/
theorem Snd.FillInv.built_of_windowFill {c : Config} (hc : c.legal = true) {u : Snd} (h : u.FillInv c)
    (ht : u.nextToTransmit = u.nextSeq) {f : Frame} (hf : Action.sendFrame f ∈ (u.windowFill c).out) :
    BuiltBetween c u.nextSeq.toNat (u.windowFill c).unit.nextSeq.toNat f := by
  obtain ⟨n, v, hcuts, ⟨-, e⟩ | ⟨-, -, -, e⟩⟩ := u.windowFill_ends c <;> rw [e] at hf ⊢
  · obtain ⟨hsame, htransmit⟩ := hcuts.sameOutside
    have hwin := (hcuts.fillInv hc h).window
    have hordered := h.window.ordered
    have hbuilt := hwin.built_of_mem_sends (a := v.nextToTransmit)
      (by rw [htransmit, ht, hsame.ackExpected]; exact hordered) hf
    rwa [htransmit, ht] at hbuilt
  · cases hf

/-- What an event of a READY sender sends: stored frames, on a message or an acknowledgment new ones (42_sender.md
R181). -/
theorem Snd.Runs.built {c : Config} (hc : c.legal = true) {u : Snd} {i : Instr} {p : Progress Snd} (h : u.Runs c i p)
    (hst : u.StoreInv c) (hu : u.Inv c) {f : Frame} (hf : Action.sendFrame f ∈ p.out) :
    BuiltBetween c u.ackExpected.toNat p.unit.nextSeq.toNat f ∧ (i ≠ .sndTimeout → u.nextSeq.toNat ≤ (le32 f 2).toNat) := by
  have hnew : BuiltBetween c u.nextSeq.toNat p.unit.nextSeq.toNat f →
      BuiltBetween c u.ackExpected.toNat p.unit.nextSeq.toNat f ∧
        (i ≠ .sndTimeout → u.nextSeq.toNat ≤ (le32 f 2).toNat) :=
    fun ⟨hge, hlt, hbuilt⟩ => ⟨⟨hu.ordered.trans hge, hlt, hbuilt⟩, fun _ => hge⟩
  cases h with
  | @message len data hdata =>
    rcases u.onMessage_cases c len data with ⟨-, e⟩ | ⟨-, -, e⟩ | ⟨-, -, -, e⟩ | ⟨hlen, hfull, -, e⟩ <;>
      rw [e] at hf hnew ⊢
    · cases hf
    · cases hf
    · cases hf
    · exact hnew ((hu.enqueued hc hst hdata hlen hfull).built_of_windowFill hc hu.transmitted (sendFrame_of_mem_started hf))
  | @ack f' _ =>
    unfold Snd.onAck at hf hnew ⊢
    rcases u.ackCondition_cases c f' with ⟨-, e⟩ | ⟨-, -, e⟩ | ⟨-, hin, e⟩ <;> simp only [e] at hf hnew ⊢
    · cases hf
    · cases hf
    · obtain ⟨hge, hlt⟩ := (u.ackInRange_iff _).1 hin
      have hbuilt := fun hf => (hu.released hst hge hlt).built_of_windowFill (f := f) hc hu.transmitted hf
      rcases u.acceptAck_cases c (frmParse f').seq with ⟨x, -, e⟩ | ⟨-, -, e⟩ | ⟨-, -, e⟩ <;> rw [e] at hf hnew ⊢
      · exact hnew (hbuilt (sendFrame_of_mem_started hf))
      · exact hnew (hbuilt (sendFrame_of_mem_started (sendFrame_of_mem_stopped hf)))
      · exact hnew (hbuilt (sendFrame_of_mem_started hf))
  | timeout hrun =>
    rw [Snd.onTimeout_of_running c hrun] at hf ⊢
    exact ⟨(hu.fillInv hst).window.built_of_mem_sends le_rfl (by simpa using hf), fun hne => absurd rfl hne⟩

theorem State.endSnd_nextSeq (s : State) (p : Progress Snd) : (s.endSnd p).snd.nextSeq = p.unit.nextSeq := by
  rw [State.endSnd_snd]
  cases p.raised <;> rfl

/-- A frame a SND operation sends from a READY sender (42_sender.md R181). -/
theorem exec_snd_built {i : Instr} {s t : State} (hi : ownerOf i = some .snd) (h : exec i s = .next t) (hs : s.Inv)
    (hm : s.snd.mode = .ready) {f : Frame} (hf : Action.sendFrame f ∈ t.outbox) :
    BuiltBetween s.cfg s.snd.ackExpected.toNat t.snd.nextSeq.toNat f ∧
      (i ≠ .sndTimeout → s.snd.nextSeq.toNat ≤ (le32 f 2).toNat) := by
  have hstop : Action.sendFrame f ∉ s.snd.stopIfRunning := by
    unfold Snd.stopIfRunning
    split <;> simp
  rcases exec_snd_cases hi h with ⟨-, rfl⟩ | ⟨-, rfl⟩ | ⟨-, p, hrun, rfl⟩ | ⟨-, -, rfl⟩
  · exact absurd hf hstop
  · cases hf
  · rw [State.endSnd_nextSeq]
    exact hrun.built hs.legal hs.sndStores (hs.snd hm) ((s.sendFrame_mem_endSnd p f).1 hf)
  · exact absurd hf hstop

/-- Settles O31: each event emits its own items and raises its own faults, and the frames are stored ones. -/
theorem senderEmitsOnlyItsOwnActions : Obligations.SenderEmitsOnlyItsOwnActions := by
  refine fun i s t hi h => ⟨fun a ha => ?_, fun hs hm f hf => ?_⟩
  · have hstop : a ∈ s.snd.stopIfRunning → a = .stopTimer := by
      unfold Snd.stopIfRunning
      split <;> simp
    rcases exec_snd_cases hi h with ⟨-, rfl⟩ | ⟨-, rfl⟩ | ⟨-, p, hrun, rfl⟩ | ⟨-, -, rfl⟩
    · exact .inr (.inl (hstop ha))
    · cases ha
    · rw [State.endSnd_outbox] at ha
      rcases List.mem_append.1 ha with ha | ha
      · rcases hrun.runFrame.emits a ha with he | he | he
        · exact .inl he
        · exact .inr (.inl he)
        · exact .inr (.inr (.inl he))
      · obtain ⟨x, hx, rfl⟩ := List.mem_map.1 ha
        refine .inr (.inr (.inr ⟨x, rfl, fun hc => ?_⟩))
        rcases hrun.raise_cases (Option.mem_toList.1 hx) with ⟨-, hcause⟩ | ⟨-, hcause⟩ <;> rw [hc] at hcause
        · simp at hcause
        · cases hcause
    · exact .inr (.inl (hstop ha))
  · obtain ⟨⟨-, hlt, plen, payload, hfit, hlen, hframe⟩, hnew⟩ := exec_snd_built hi h hs hm hf
    refine ⟨⟨le32 f 2, plen, payload, fun he => ?_, hfit, hlen, hframe⟩, hnew⟩
    have hmax := t.snd.nextSeq.isLt
    rw [he] at hlt
    have : noneYet.toNat = 0xFFFFFFFF := rfl
    omega

end Sys2Proof.Machine
end

section
/-! `SeqExhausted` (42_sender.md R176, 60_exceptions.md R253): every cut takes one fragment off what is unsent, so a
sender with more to cut than numbers left runs out of numbers. -/

namespace Sys2Proof.Machine

theorem maxPayload_bounds {c : Config} (hc : c.legal = true) : 5 ≤ c.maxPayload ∧ c.maxPayload ≤ 255 := by
  have := legal_bounds hc
  unfold Config.maxPayload
  omega

/-- How many message bytes the next fragment carries (42_sender.md R176). -/
theorem Snd.fragment_count (c : Config) (u : Snd) (m : QEntry) :
    (u.fragment c m).2 =
      if u.curOff = 0 then min m.len.toNat (c.maxPayload - 4)
      else min (m.len.toNat - u.curOff.toNat) c.maxPayload := by
  unfold Snd.fragment
  split <;> rfl

/-- The cursor after a cut, without wrapping: it stays inside the message (42_sender.md R176). -/
theorem Snd.toNat_curOff_add {c : Config} {u : Snd} {m : QEntry} (hcur : u.curOff = 0 ∨ u.curOff.toNat < m.len.toNat) :
    (u.curOff + BitVec.ofNat 32 (u.fragment c m).2).toNat = u.curOff.toNat + (u.fragment c m).2 := by
  have hle := u.fragment_le (c := c) hcur
  have hlen := m.len.isLt
  rw [BitVec.toNat_add, BitVec.toNat_ofNat]
  omega

/-- Bytes in pieces of `w`, rounded up: one full or last piece fewer. -/
theorem pieces_step {w x : Nat} (hw : 0 < w) (hx : 0 < x) :
    (x + (w - 1)) / w = (x - min x w + (w - 1)) / w + 1 := by
  rcases Nat.le_total x w with hle | hge
  · have hone : (x + (w - 1)) / w = 1 := Nat.div_eq_of_lt_le (by omega) (by omega)
    have hnone : (w - 1) / w = 0 := Nat.div_eq_of_lt (by omega)
    rw [Nat.min_eq_left hle, Nat.sub_self, Nat.zero_add, hone, hnone]
  · rw [Nat.min_eq_right hge, ← Nat.add_div_right _ hw]
    congr 1
    omega

/-- The fragments still to be cut from the head message, of which the next one is the first. -/
theorem unsent_head_eq {c : Config} (hc : c.legal = true) {u : Snd} {m : QEntry}
    (hcur : u.curOff = 0 ∨ u.curOff.toNat < m.len.toNat) :
    (if u.curOff = 0 then fragmentCount c m.len.toNat
      else (m.len.toNat - u.curOff.toNat + (c.maxPayload - 1)) / c.maxPayload) =
    (m.len.toNat - (u.curOff.toNat + (u.fragment c m).2) + (c.maxPayload - 1)) / c.maxPayload + 1 := by
  have hpay := maxPayload_bounds hc
  rw [u.fragment_count]
  by_cases h0 : u.curOff = 0
  · rw [if_pos h0, if_pos h0, h0, fragmentCount, Nat.add_comm 1,
      show m.len.toNat - ((0 : Word).toNat + min m.len.toNat (c.maxPayload - 4)) = m.len.toNat - (c.maxPayload - 4) by
        show m.len.toNat - (0 + min m.len.toNat (c.maxPayload - 4)) = _
        omega]
  · have hlt := hcur.resolve_left h0
    rw [if_neg h0, if_neg h0, pieces_step (by omega) (by omega), Nat.sub_sub]

/-- With the cursor at a message's start, all that is unsent is whole messages. -/
theorem Snd.unsentFragments_of_start {c : Config} {u : Snd} (h : u.curOff = 0) :
    u.unsentFragments c = (u.q.map fun e => fragmentCount c e.len.toNat).sum := by
  unfold Snd.unsentFragments
  cases u.q with
  | nil => rfl
  | cons m ms => simp [h]

/-- A cut takes one fragment off what is unsent. -/
theorem Snd.unsentFragments_fillOne {c : Config} (hc : c.legal = true) {u : Snd} {m : QEntry} {ms : List QEntry}
    (hq : u.q = m :: ms) (hcur : u.curOff = 0 ∨ u.curOff.toNat < m.len.toNat) :
    (u.fillOne c m).unsentFragments c + 1 = u.unsentFragments c := by
  have hpay := maxPayload_bounds hc
  have hoff := u.toNat_curOff_add (c := c) hcur
  have hhead := unsent_head_eq hc hcur
  have hunsent : u.unsentFragments c =
      (m.len.toNat - (u.curOff.toNat + (u.fragment c m).2) + (c.maxPayload - 1)) / c.maxPayload + 1 +
        (ms.map fun e => fragmentCount c e.len.toNat).sum := by
    rw [← hhead]
    unfold Snd.unsentFragments
    rw [hq]
  rw [hunsent]
  rcases u.fillOne_cases c m with ⟨hdone, hq', -, hoff'⟩ | ⟨hmore, hq', -, hoff'⟩
  · rw [hdone] at hoff
    rw [Snd.unsentFragments_of_start hoff', hq', hq, ← hoff, Nat.sub_self, Nat.zero_add, Nat.div_eq_of_lt (by omega)]
    simp only [List.tail_cons]
    omega
  · have hne : ¬ (u.fillOne c m).curOff = 0 := by
      rw [hoff']
      intro h0
      have hzero : u.curOff.toNat + (u.fragment c m).2 = 0 := hoff.symm.trans (congrArg BitVec.toNat h0)
      have hcur0 : u.curOff = 0 := BitVec.eq_of_toNat_eq (show u.curOff.toNat = 0 by omega)
      rw [u.fragment_count, if_pos hcur0] at hzero
      refine hmore (BitVec.eq_of_toNat_eq ?_)
      rw [h0]
      show 0 = m.len.toNat
      omega
    unfold Snd.unsentFragments
    rw [hq', hq]
    simp only [if_neg hne]
    rw [hoff', hoff]
    omega

theorem Snd.Cuts.unsent {c : Config} (hc : c.legal = true) {n : Nat} {u v : Snd} (h : Snd.Cuts c n u v)
    (hu : u.FillInv c) : v.unsentFragments c + n = u.unsentFragments c := by
  induction h with
  | stay u => rfl
  | @turn n u v m ms hq hroom hnum rest ih =>
    have hcur := hu.queue.cursor m (by rw [hq]; rfl)
    have hone := Snd.unsentFragments_fillOne hc hq hcur
    have hrest := ih (hu.fillOne hc hq hroom hnum)
    omega

/-- A fill with more fragments unsent than numbers left, and room for more than those numbers, ends by `SeqExhausted`:
it uses every number left, and TRANSMIT does not run (42_sender.md R176). -/
theorem Snd.FillInv.exhausted {c : Config} (hc : c.legal = true) {u : Snd} (h : u.FillInv c)
    (hmany : u.numbersLeft < u.unsentFragments c) (hroom : u.nbuffered + u.numbersLeft < c.window) :
    ∃ v, u.windowFill c = ⟨v, [], some ⟨.seqExhausted, noneYet⟩⟩ ∧
      u.Exhausted c { v with mode := .halted, fault := 0x02 } := by
  have hleft : u.numbersLeft = 0xFFFFFFFF - u.nextSeq.toNat := rfl
  have hmax := u.nextSeq.isLt
  obtain ⟨n, v, hcuts, hend⟩ := u.windowFill_ends c
  obtain ⟨hnext, hcount⟩ := hcuts.counted
  have hv := hcuts.fillInv hc h
  have hunsent := hcuts.unsent hc h
  have hvmax := v.nextSeq.isLt
  rcases hend with ⟨hnil | hfull, -⟩ | ⟨-, -, hnum, e⟩
  · have hzero : v.unsentFragments c = 0 := by
      unfold Snd.unsentFragments
      rw [hnil]
    omega
  · omega
  · have hvnext : v.nextSeq.toNat = 0xFFFFFFFF := by rw [hnum]; rfl
    have hn : n = u.numbersLeft := by omega
    obtain ⟨hsame, htransmit⟩ := hcuts.sameOutside
    have hordered := h.window.ordered
    refine ⟨v, e, ⟨rfl, rfl, hnum, by rw [← hn]; exact hcount, hsame.ackExpected, htransmit, hsame.msgNext, hsame.tmrRun,
      by rw [← hn]; exact hunsent, hcuts.queue, fun s hge hlt => ?_⟩⟩
    obtain ⟨-, hseq, hvalid⟩ := hv.window.stored s (by rw [hsame.ackExpected]; omega) (by omega)
    exact ⟨hvalid, hseq⟩

/-- Entered with the reserved number next, WINDOW_FILL raises before it cuts anything (42_sender.md R176). -/
theorem Snd.windowFill_of_reserved {c : Config} {u : Snd} (hq : u.q ≠ []) (hroom : u.nbuffered < c.window)
    (hnum : u.nextSeq = noneYet) : u.windowFill c = ⟨u, [], some ⟨.seqExhausted, noneYet⟩⟩ := by
  obtain ⟨n, v, hcuts, hend⟩ := u.windowFill_ends c
  cases hcuts with
  | turn _ _ hne _ => exact absurd hnum hne
  | stay =>
    rcases hend with ⟨hnil | hfull, -⟩ | ⟨-, -, -, e⟩
    · exact absurd hnil hq
    · omega
    · exact e

theorem Snd.acceptAck_of_raise {c : Config} {u v : Snd} {ack : Word} {out : List Action} {x : Raise}
    (e : (u.released ack).windowFill c = ⟨v, out, some x⟩) :
    u.acceptAck c ack = ⟨v, .startTimer c.timeout :: out, some x⟩ := by
  have hcases := u.acceptAck_cases c ack
  rw [show ({ u with
      tmrRun := true
      nbuffered := u.nbuffered - (ack.toNat - u.ackExpected.toNat + 1)
      ackExpected := ack + 1 } : Snd) = u.released ack from rfl, e] at hcases
  rcases hcases with ⟨x', hx, e'⟩ | ⟨hx, -⟩ | ⟨hx, -⟩
  · cases hx
    exact e'
  · cases hx
  · cases hx

/-- Settles O24: with the reserved number next the fill raises at once; before that it uses up the numbers left. -/
theorem senderHaltsBeforeReservedNumber : Obligations.SenderHaltsBeforeReservedNumber := by
  refine fun s hm => ⟨?_, ?_⟩
  · intro len data hstop hdata hlen hfull u out
    refine ⟨fun hnum hroom => ?_, fun hs hmany hroom => ?_⟩
    · have e := Snd.windowFill_of_reserved (u := s.snd.enqueued len data) (by simp [Snd.enqueued]) hroom hnum
      rw [exec_sndMsg_of_stopped hm hdata hlen hfull hstop e]
      rfl
    · have hfill := (hs.snd hm).enqueued hs.legal hs.sndStores hdata hlen hfull
      obtain ⟨v, e, hexhausted⟩ := hfill.exhausted hs.legal hmany hroom
      exact ⟨_, exec_sndMsg_of_stopped hm hdata hlen hfull hstop e, hexhausted⟩
  · intro f hs hf hv hge hlt u hmany hroom
    have hfill := (hs.snd hm).released hs.sndStores hge hlt
    obtain ⟨v, e, hexhausted⟩ := hfill.exhausted hs.legal hmany hroom
    refine ⟨_, ?_, hexhausted⟩
    rw [exec_sndAckf_of_ready hm hf, Snd.onAck_of_in_range hv hge hlt, Snd.acceptAck_of_raise e]
    rfl

end Sys2Proof.Machine
end

section
/-! Window agreement across the channel (43_receiver.md R219): what a step of each unit does to the numbers both sides
go by, and from it what every honest move keeps. -/

namespace Sys2Proof.Machine

/-! ### SND's side -/

/-- A frame a SND operation that is neither INIT nor FINAL sends is numbered below the `next_seq` it leaves. -/
theorem exec_snd_sent_lt {i : Instr} {s t : State} (hi : ownerOf i = some .snd) (hinit : i ≠ .sndInit)
    (hfinal : i ≠ .sndFinal) (h : exec i s = .next t) (hs : s.Inv) {f : Frame}
    (hf : Action.sendFrame f ∈ t.outbox) : (le32 f 2).toNat < t.snd.nextSeq.toNat := by
  rcases exec_snd_cases hi h with ⟨he, -⟩ | ⟨-, rfl⟩ | ⟨hm, -, -, -⟩ | ⟨he, -⟩
  · exact absurd he hinit
  · cases hf
  · exact (exec_snd_built hi h hs hm hf).1.upper
  · exact absurd he hfinal

/-- SND.ACKF moves `ack_expected` on a valid frame alone, to the number after the one it names (42_sender.md R173). -/
theorem exec_sndAckf_ackExpected {s t : State} {f : Frame} (h : exec (.sndAckf f) s = .next t) :
    t.snd.ackExpected = s.snd.ackExpected ∨
      (chkValidate s.cfg f = true ∧ t.snd.ackExpected = le32 f 2 + 1) := by
  obtain ⟨-, -, -, -, -, -, -, hack, -⟩ := senderOperationsFrame _ s t rfl h
  cases hv : chkValidate s.cfg f with
  | true => exact (hack f rfl).2.2.2.imp_right fun h => ⟨rfl, h⟩
  | false =>
    refine .inl ?_
    rcases exec_snd_cases rfl h with ⟨he, -⟩ | ⟨-, rfl⟩ | ⟨-, p, hrun, rfl⟩ | ⟨he, -⟩
    · cases he
    · rfl
    · cases hrun with
      | ack _ =>
        rw [Snd.onAck, s.snd.ackCondition_of_invalid hv]
        rfl
    · cases he

/-! ### RCV's side -/

/-- Every frame held is numbered below `n`. -/
def Rcv.HeldNumbered (c : Config) (n : Nat) (occ : Store Bool) (rwin : Store Frame) : Prop :=
  ∀ i, Store.read false occ i = true → (frmParse (Store.read (blankFrame c) rwin i)).seq.toNat < n

theorem Rcv.HeldNumbered.of_occ_le {c : Config} {n : Nat} {occ occ' : Store Bool} {rwin : Store Frame}
    (h : Rcv.HeldNumbered c n occ rwin) (hle : ∀ i, Store.read false occ' i = true → Store.read false occ i = true) :
    Rcv.HeldNumbered c n occ' rwin := fun i hi => h i (hle i hi)

theorem read_write_false_le {occ : Store Bool} (hw : Store.wf false occ) (k : Nat) {i : Nat}
    (h : Store.read false (Store.write false occ k false) i = true) : Store.read false occ i = true := by
  rw [Store.read_write hw] at h
  split at h
  · cases h
  · exact h

theorem Rcv.HeldNumbered.store {c : Config} {n : Nat} {r : Rcv} (h : Rcv.HeldNumbered c n r.occ r.rwin)
    (hst : r.StoreInv c) (s : Word) {f : Frame} (hf : (frmParse f).seq.toNat < n) :
    Rcv.HeldNumbered c n (r.store c s f).occ (r.store c s f).rwin := by
  intro i hi
  rw [Rcv.store_occ, Store.read_write hst.occCanonical] at hi
  rw [Rcv.store_rwin, Store.read_write hst.rwinCanonical]
  by_cases hslot : i = slotOf c s
  · rwa [if_pos hslot]
  · rw [if_neg hslot] at hi ⊢
    exact h i hi

/-- A run of passes takes frames held alone, so `expected` stays at most at a bound of their numbers. -/
theorem Rcv.Passes.numbered {c : Config} (hc : c.legal = true) {b n k : Nat} {r v : Rcv} {out : List Action}
    (h : Rcv.Passes c n r out v) (hk : k ≤ c.window) (hinv : r.DrainInv c k)
    (hheld : Rcv.HeldNumbered c b r.occ r.rwin) (hexp : r.expected.toNat ≤ b) :
    v.expected.toNat ≤ b ∧ Rcv.HeldNumbered c b v.occ v.rwin := by
  induction h generalizing k with
  | stay r => exact ⟨hexp, hheld⟩
  | @turn n r v out hocc hok rest ih =>
    cases k with
    | zero =>
      rw [hinv.gap_of_zero] at hocc
      cases hocc
    | succ k =>
      have hlt : r.expected.toNat < b := (hinv.held.seq_expected hk hocc).1 ▸ hheld _ hocc
      have hsucc := ((Rcv.Passes.turn hocc hok (.stay _)).expected hc hk hinv).2
      obtain ⟨-, -, -, hpocc, hprwin⟩ := r.pass_fields hok
      refine ih (by omega) (hinv.pass hc hk hocc hok) ?_ (by omega)
      rw [hpocc, hprwin]
      exact hheld.of_occ_le fun i => read_write_false_le hinv.sound.stores.occCanonical _

/-- RCV.FRAME on a frame numbered below a bound of the numbers held keeps the bound, for `expected` and for what is
held. -/
theorem Rcv.onFrame_numbered {c : Config} (hc : c.legal = true) {b : Nat} {r : Rcv} {f : Frame}
    (hf : f.length = c.frameSize) (hst : r.StoreInv c) (hr : r.Inv c)
    (hheld : Rcv.HeldNumbered c b r.occ r.rwin) (hexp : r.expected.toNat ≤ b)
    (hnum : chkValidate c f = true → (frmParse f).seq.toNat < b) :
    (r.onFrame c f).unit.expected.toNat ≤ b ∧
      Rcv.HeldNumbered c b (r.onFrame c f).unit.occ (r.onFrame c f).unit.rwin := by
  rcases r.onFrame_or_takesNext hf with ⟨-, e⟩ | ⟨-, -, e⟩ | ⟨hv, -, -, -, e⟩ | htakes
  · rw [e]
    exact ⟨hexp, hheld⟩
  · rw [e]
    exact ⟨hexp, hheld⟩
  · rw [e]
    exact ⟨hexp, hheld.store hst _ (hnum hv)⟩
  · have hstored := hheld.store hst r.expected (hnum htakes.valid)
    obtain ⟨n, out, v, -, hpass, hinv, hend⟩ := htakes.onFrame_cases hc hst hr
    obtain ⟨hexp', hheld'⟩ := hpass.numbered hc le_rfl (htakes.drainInv hc hst hr) hstored hexp
    rcases hend with ⟨-, -, e⟩ | ⟨-, -, e⟩ <;> rw [e]
    · exact ⟨hexp', hheld'⟩
    · exact ⟨hexp', hheld'.of_occ_le fun i => read_write_false_le hinv.sound.stores.occCanonical _⟩

/-- What a step of RCV.FRAME does to the numbers both sides go by. -/
theorem exec_rcvFrame_numbered {s t : State} {f : Frame} {b : Nat} (hs : s.Inv) (h : exec (.rcvFrame f) s = .next t)
    (hheld : Rcv.HeldNumbered s.cfg b s.rcv.occ s.rcv.rwin) (hexp : s.rcv.expected.toNat ≤ b)
    (hnum : chkValidate s.cfg f = true → (frmParse f).seq.toNat < b) :
    s.rcv.expected.toNat ≤ t.rcv.expected.toNat ∧ t.rcv.expected.toNat ≤ b ∧
      Rcv.HeldNumbered s.cfg b t.rcv.occ t.rcv.rwin := by
  rcases exec_rcv_cases rfl h with ⟨he, -⟩ | ⟨-, rfl⟩ | ⟨hm, g, he, hf, rfl⟩ | ⟨he, -⟩
  · cases he
  · exact ⟨le_rfl, hexp, hheld⟩
  · cases he
    have hr := hs.rcv hm
    have hup := (Rcv.onFrame_expected hs.legal hf hs.rcvStores hr).1
    have hkept := Rcv.onFrame_numbered hs.legal hf hs.rcvStores hr hheld hexp hnum
    rw [State.endRcv_rcv]
    cases (s.rcv.onFrame s.cfg f).raised with
    | none => exact ⟨hup, hkept⟩
    | some x => exact ⟨hup, hkept⟩
  · cases he

/-! ### Moves -/

theorem issue_eq_some {i : Instr} {s t : State} : issue i s = some t ↔ exec i s = .next t := by
  unfold issue
  cases exec i s <;> simp

theorem System.sndOp_eq_some {y y' : System} {i : Instr} :
    y.sndOp i = some y' ↔
      ∃ t, exec i y.block = .next t ∧ { y with block := t, fwd := y.fwd ++ sentFrames t.outbox } = y' := by
  simp only [System.sndOp, Option.map_eq_some_iff, issue_eq_some]

theorem System.rcvOp_eq_some {y y' : System} {i : Instr} :
    y.rcvOp i = some y' ↔
      ∃ t, exec i y.block = .next t ∧
        { y with
          block := t
          bwd := y.bwd ++ sentFrames t.outbox
          delivered := y.delivered ++ deliveredMessages t.outbox } = y' := by
  simp only [System.rcvOp, Option.map_eq_some_iff, issue_eq_some]

/-- Frames leave a bag; the records of messages play no part. -/
theorem System.Agree.of_subset {y y' : System} (h : y.Agree) (hblock : y'.block = y.block) (hfwd : y'.fwd ⊆ y.fwd)
    (hbwd : y'.bwd ⊆ y.bwd) : y'.Agree where
  block := hblock ▸ h.block
  fwdNumbered := fun f hf => hblock ▸ h.fwdNumbered f (hfwd hf)
  bwdConsumed := fun f hf => hblock ▸ h.bwdConsumed f (hbwd hf)
  heldNumbered := hblock ▸ h.heldNumbered
  ackConsumed := hblock ▸ h.ackConsumed
  consumedSent := hblock ▸ h.consumedSent

/-- A SND operation that is neither INIT nor FINAL keeps agreement, if what it acknowledges RCV has consumed. -/
theorem System.Agree.sndOp {y y' : System} {i : Instr} (h : y.Agree) (hi : ownerOf i = some .snd) (hinit : i ≠ .sndInit)
    (hfinal : i ≠ .sndFinal)
    (hack : ∀ t, exec i y.block = .next t → t.snd.ackExpected.toNat ≤ y.block.rcv.expected.toNat)
    (hy : y.sndOp i = some y') : y'.Agree := by
  obtain ⟨t, ht, rfl⟩ := System.sndOp_eq_some.1 hy
  obtain ⟨hrcv, hcfg, -, -, -, -, -, -, hseq⟩ := senderOperationsFrame i y.block t hi ht
  have hup := (hseq hinit hfinal).1
  refine ⟨exec_inv h.block ht, fun f hf => ?_, ?_, ?_, ?_, ?_⟩
  · rcases List.mem_append.1 hf with hf | hf
    · exact (h.fwdNumbered f hf).trans_le hup
    · exact exec_snd_sent_lt hi hinit hfinal ht h.block (mem_sentFrames.1 hf)
  · exact hrcv ▸ h.bwdConsumed
  · show Rcv.HeldNumbered t.cfg t.snd.nextSeq.toNat t.rcv.occ t.rcv.rwin
    rw [hrcv, hcfg]
    exact fun i hi => (h.heldNumbered i hi).trans_le hup
  · show t.snd.ackExpected.toNat ≤ t.rcv.expected.toNat
    rw [hrcv]
    exact hack t ht
  · show t.rcv.expected.toNat ≤ t.snd.nextSeq.toNat
    rw [hrcv]
    exact h.consumedSent.trans hup

/-- RCV.FRAME keeps agreement, if a frame that validates is numbered below `next_seq`. -/
theorem System.Agree.rcvOp {y y' : System} {f : Frame} (h : y.Agree)
    (hnum : chkValidate y.block.cfg f = true → (frmParse f).seq.toNat < y.block.snd.nextSeq.toNat)
    (hy : y.rcvOp (.rcvFrame f) = some y') : y'.Agree := by
  obtain ⟨t, ht, rfl⟩ := System.rcvOp_eq_some.1 hy
  obtain ⟨hup, hle, hheld⟩ := exec_rcvFrame_numbered h.block ht h.heldNumbered h.consumedSent hnum
  have hsnd := exec_rcv_snd rfl ht
  refine ⟨exec_inv h.block ht, ?_, fun g hg => ?_, ?_, ?_, ?_⟩
  · exact hsnd ▸ h.fwdNumbered
  · rcases List.mem_append.1 hg with hg | hg
    · exact (h.bwdConsumed g hg).trans hup
    · rw [exec_rcvFrame_sent ht (mem_sentFrames.1 hg), frmParse_frmAck_seq, BitVec.sub_add_cancel]
  · show Rcv.HeldNumbered t.cfg t.snd.nextSeq.toNat t.rcv.occ t.rcv.rwin
    rw [hsnd, exec_cfg ht]
    exact hheld
  · show t.snd.ackExpected.toNat ≤ t.rcv.expected.toNat
    rw [hsnd]
    exact h.ackConsumed.trans hup
  · show t.rcv.expected.toNat ≤ t.snd.nextSeq.toNat
    rw [hsnd]
    exact hle

theorem ite_keep_subset {l : List Frame} (keep : Bool) (k : Nat) : (if keep then l else l.eraseIdx k) ⊆ l := by
  split
  · exact List.Subset.refl _
  · exact List.eraseIdx_subset

/-- Settles O57: a message and an expiry acknowledge nothing, an acknowledgment that arrives valid was in the bag, and
so was a data frame that does. -/
theorem windowAgreementKeptByEveryMove : Obligations.WindowAgreementKeptByEveryMove := by
  intro y y' m h hhonest hlife hy
  cases m with
  | sndInit | sndFinal | rcvInit | rcvFinal | hardReset => cases hlife
  | message len data =>
    obtain ⟨y₁, hy₁, rfl⟩ := Option.map_eq_some_iff.1 hy
    have hagree := h.sndOp (i := .sndMsg len data) rfl nofun nofun (fun t ht => by
      obtain ⟨-, -, -, -, -, -, hmsg, -⟩ := senderOperationsFrame _ _ t rfl ht
      rw [(hmsg len data rfl).1]
      exact h.ackConsumed) hy₁
    unfold System.noteMessage
    split
    · exact hagree
    · exact hagree.of_subset rfl (List.Subset.refl _) (List.Subset.refl _)
  | expiry =>
    refine h.sndOp (i := .sndTimeout) rfl nofun nofun (fun t ht => ?_) hy
    rcases exec_snd_cases rfl ht with ⟨he, -⟩ | ⟨-, rfl⟩ | ⟨-, p, hrun, rfl⟩ | ⟨he, -⟩
    · cases he
    · exact h.ackConsumed
    · cases hrun
      exact h.ackConsumed
    · cases he
  | deliverFwd k keep arrives =>
    obtain ⟨-, hy⟩ := Option.ite_none_right_eq_some.1 hy
    have hsub := h.of_subset (y' := { y with fwd := if keep then y.fwd else y.fwd.eraseIdx k }) rfl
      (ite_keep_subset keep k) (List.Subset.refl _)
    refine hsub.rcvOp (fun hv => ?_) hy
    rcases hhonest with hin | hbad
    · exact h.fwdNumbered _ (List.mem_of_getElem? hin)
    · have hv : chkValidate y.block.cfg arrives = true := hv
      rw [hbad] at hv
      cases hv
  | deliverBwd k keep arrives =>
    obtain ⟨-, hy⟩ := Option.ite_none_right_eq_some.1 hy
    have hsub := h.of_subset (y' := { y with bwd := if keep then y.bwd else y.bwd.eraseIdx k }) rfl
      (List.Subset.refl _) (ite_keep_subset keep k)
    refine hsub.sndOp (i := .sndAckf arrives) rfl nofun nofun (fun t ht => ?_) hy
    rcases exec_sndAckf_ackExpected ht with he | ⟨hv, he⟩
    · rw [he]
      exact h.ackConsumed
    · rcases hhonest with hin | hbad
      · rw [he]
        exact h.bwdConsumed _ (List.mem_of_getElem? hin)
      · have hv : chkValidate y.block.cfg arrives = true := hv
        rw [hbad] at hv
        cases hv
  | dropFwd k =>
    obtain ⟨-, hy⟩ := Option.ite_none_right_eq_some.1 hy
    cases hy
    exact h.of_subset rfl List.eraseIdx_subset (List.Subset.refl _)
  | dropBwd k =>
    obtain ⟨-, hy⟩ := Option.ite_none_right_eq_some.1 hy
    cases hy
    exact h.of_subset rfl (List.Subset.refl _) List.eraseIdx_subset

/-- The block of a system right after both INITs: both units fresh, on the stores it has (70_reset_and_hazards.md
R302). -/
theorem System.Started.units {y : System} (h : y.Started) :
    y.block.snd = { y.block.snd.fresh with mode := .ready, fault := 0 } ∧
      y.block.rcv = { y.block.rcv.fresh with mode := .ready, fault := 0 } := by
  obtain ⟨s, t, hs, ht⟩ := h.initialised
  cases hs
  rw [← Host.Outcome.next.inj ht]
  exact ⟨rfl, rfl⟩

/-- Settles O58: fresh units meet R30 and R34, nothing is in flight or held, and all three numbers are 0. -/
theorem startedSystemAgrees : Obligations.StartedSystemAgrees := by
  intro y h
  obtain ⟨hu, hr⟩ := h.units
  have hum : y.block.snd.mode = .ready := by rw [hu]
  have hrm : y.block.rcv.mode = .ready := by rw [hr]
  have hinv : y.block.Inv := by
    refine ⟨h.legal, h.sndStores, h.rcvStores, ?_, ?_, fun _ => ?_, fun _ => ?_⟩
    · rw [hu]
      exact ⟨fun _ => rfl, nofun⟩
    · rw [hr]
      exact ⟨fun _ => rfl, nofun⟩
    · rw [hu]
      exact y.block.snd.fresh_inv _ _ _
    · rw [hr]
      exact y.block.rcv.fresh_inv _ _ _
  have hack : y.block.snd.ackExpected = 0 := by rw [hu]; rfl
  have hexp : y.block.rcv.expected = 0 := by rw [hr]; rfl
  have hocc : y.block.rcv.occ = [] := by rw [hr]; rfl
  refine ⟨⟨hinv, fun f hf => ?_, fun f hf => ?_, fun i hi => ?_, ?_, ?_⟩, hum, hrm⟩
  · rw [h.fwdEmpty] at hf
    cases hf
  · rw [h.bwdEmpty] at hf
    cases hf
  · rw [hocc] at hi
    cases hi
  · rw [hack]
    exact Nat.zero_le _
  · rw [hexp]
    exact Nat.zero_le _

end Sys2Proof.Machine
end

section
/-! Messages as the payloads they are cut into (42_sender.md R178): how many bytes the first fragments hold, what is
still to be cut by a sender, and what stands in the window after a run of cuts. -/

namespace Sys2Proof.Machine

/-! ### The fragments of a message -/

/-- How many bytes of a message of `len` bytes its first `k` fragments hold (42_sender.md R178). -/
def cutBytes (c : Config) (len k : Nat) : Nat :=
  if k = 0 then 0 else min len (c.maxPayload - 4 + (k - 1) * c.maxPayload)

theorem cutBytes_zero (c : Config) (len : Nat) : cutBytes c len 0 = 0 := rfl

theorem cutBytes_le (c : Config) (len k : Nat) : cutBytes c len k ≤ len := by
  unfold cutBytes
  split
  · exact Nat.zero_le _
  · exact Nat.min_le_left _ _

/-- A message has at least one fragment (42_sender.md R178). -/
theorem fragmentCount_pos (c : Config) (len : Nat) : 0 < fragmentCount c len := by
  unfold fragmentCount
  exact Nat.lt_of_lt_of_le Nat.one_pos (Nat.le_add_right _ _)

/-- A fragment number `k + 1` exists exactly when the first `k + 1` fragments do not hold the message. -/
theorem succ_lt_fragmentCount_iff {c : Config} (hc : c.legal = true) (len k : Nat) :
    k + 1 < fragmentCount c len ↔ c.maxPayload - 4 + k * c.maxPayload < len := by
  have hpay := maxPayload_bounds hc
  unfold fragmentCount
  rw [Nat.add_comm 1, Nat.add_lt_add_iff_right, Nat.lt_iff_add_one_le, Nat.le_div_iff_mul_le (by omega),
    Nat.add_mul, Nat.one_mul]
  omega

/-- Before the last fragment the message is not all cut; it is after. -/
theorem cutBytes_of_more {c : Config} (hc : c.legal = true) {len k : Nat} (h : k + 1 < fragmentCount c len) :
    cutBytes c len (k + 1) = c.maxPayload - 4 + k * c.maxPayload ∧ cutBytes c len (k + 1) < len := by
  have hlt := (succ_lt_fragmentCount_iff hc len k).1 h
  rw [cutBytes, if_neg (Nat.succ_ne_zero k), Nat.add_sub_cancel, Nat.min_eq_right hlt.le]
  exact ⟨rfl, hlt⟩

theorem cutBytes_of_last {c : Config} (hc : c.legal = true) {len k : Nat} (h : k + 1 = fragmentCount c len) :
    cutBytes c len (k + 1) = len := by
  have hle := (succ_lt_fragmentCount_iff hc len k).not.1 (by omega)
  rw [cutBytes, if_neg (Nat.succ_ne_zero k), Nat.add_sub_cancel]
  omega

/-- The message bytes of fragment `k`. -/
def cutPart (c : Config) (data : List Byte) (k : Nat) : List Byte :=
  (data.drop (cutBytes c data.length k)).take (cutBytes c data.length (k + 1) - cutBytes c data.length k)

/-- Fragment by fragment the message is put together. -/
theorem take_cutBytes_append (c : Config) (data : List Byte) (k : Nat)
    (hle : cutBytes c data.length k ≤ cutBytes c data.length (k + 1)) :
    data.take (cutBytes c data.length k) ++ cutPart c data k = data.take (cutBytes c data.length (k + 1)) := by
  rw [cutPart, ← List.take_add, Nat.add_sub_cancel' hle]

theorem cutBytes_mono {c : Config} {len k : Nat} : cutBytes c len k ≤ cutBytes c len (k + 1) := by
  unfold cutBytes
  cases k with
  | zero => exact Nat.zero_le _
  | succ k =>
    rw [if_neg (Nat.succ_ne_zero _), if_neg (Nat.succ_ne_zero _), Nat.add_sub_cancel, Nat.add_sub_cancel, Nat.add_mul]
    omega

theorem length_cutPart (c : Config) (data : List Byte) (k : Nat) :
    (cutPart c data k).length = cutBytes c data.length (k + 1) - cutBytes c data.length k := by
  have := cutBytes_le c data.length (k + 1)
  rw [cutPart, List.length_take, List.length_drop]
  omega

/-- The payload of fragment `k` is its message bytes, behind the message's length in the first (42_sender.md R178). -/
theorem fragmentPayload_eq {c : Config} (hc : c.legal = true) {len : Word} {data : List Byte}
    (hdata : data.length = len.toNat) {k : Nat} (hk : k < fragmentCount c len.toNat) :
    fragmentPayload c len data k = (if k = 0 then put32 len else []) ++ cutPart c data k := by
  rw [fragmentPayload, cutPart, hdata]
  cases k with
  | zero =>
    rw [if_pos rfl, if_pos rfl, cutBytes_zero, List.drop_zero, Nat.sub_zero]
    congr 1
    rw [List.take_eq_take_iff, hdata, cutBytes, if_neg Nat.one_ne_zero]
    simp
    omega
  | succ k =>
    have hcut := (cutBytes_of_more hc hk).1
    rw [if_neg (Nat.succ_ne_zero k), if_neg (Nat.succ_ne_zero k), List.nil_append, hcut, Nat.add_sub_cancel,
      List.take_eq_take_iff, List.length_drop, hdata, cutBytes, if_neg (Nat.succ_ne_zero _), Nat.add_sub_cancel,
      Nat.add_mul]
    omega

/-- A fragment's payload fits the frame (42_sender.md R178). -/
theorem length_fragmentPayload_le {c : Config} (hc : c.legal = true) (len : Word) (data : List Byte) (k : Nat) :
    (fragmentPayload c len data k).length ≤ c.maxPayload := by
  have hpay := maxPayload_bounds hc
  unfold fragmentPayload
  split
  · rw [List.length_append, length_put32, List.length_take]
    omega
  · rw [List.length_take]
    exact Nat.min_le_left _ _

/-! ### Messages as a sequence of payloads -/

/-- The payloads a message is cut into, in order (42_sender.md R178). -/
def fragmentsOf (c : Config) (m : Word × List Byte) : List (List Byte) :=
  (List.range (fragmentCount c m.1.toNat)).map (fragmentPayload c m.1 m.2)

/-- The payloads messages are cut into, one message after another. -/
def fragments (c : Config) (ms : List (Word × List Byte)) : List (List Byte) := ms.flatMap (fragmentsOf c)

/-- The data frame numbered `seq` that carries a payload (41_framer.md R151). -/
def dataFrame (c : Config) (seq : Word) (p : List Byte) : Frame := frmData c seq (BitVec.ofNat 8 p.length) p

theorem length_fragmentsOf (c : Config) (m : Word × List Byte) :
    (fragmentsOf c m).length = fragmentCount c m.1.toNat := by
  simp [fragmentsOf]

theorem drop_fragmentsOf {c : Config} {m : Word × List Byte} {k : Nat} (hk : k < fragmentCount c m.1.toNat) :
    (fragmentsOf c m).drop k = fragmentPayload c m.1 m.2 k :: (fragmentsOf c m).drop (k + 1) := by
  rw [List.drop_eq_getElem_cons (by rwa [length_fragmentsOf])]
  simp [fragmentsOf]

theorem drop_fragmentsOf_end {c : Config} {m : Word × List Byte} {k : Nat} (hk : fragmentCount c m.1.toNat ≤ k) :
    (fragmentsOf c m).drop k = [] :=
  List.drop_eq_nil_of_le (by rwa [length_fragmentsOf])

theorem fragments_cons (c : Config) (m : Word × List Byte) (ms : List (Word × List Byte)) :
    fragments c (m :: ms) = fragmentsOf c m ++ fragments c ms := List.flatMap_cons

theorem fragments_append (c : Config) (ms ms' : List (Word × List Byte)) :
    fragments c (ms ++ ms') = fragments c ms ++ fragments c ms' := List.flatMap_append

theorem fragments_snoc (c : Config) (ms : List (Word × List Byte)) (m : Word × List Byte) :
    fragments c (ms ++ [m]) = fragments c ms ++ fragmentsOf c m := by
  rw [fragments_append, fragments, fragments, List.flatMap_singleton]

end Sys2Proof.Machine
end

section
/-! A sender as the source of a sequence of payloads (42_sender.md R176, R178): what it has still to cut, and which
payload each frame it holds or sends carries. -/

namespace Sys2Proof.Machine

/-- Numbers counted on without wrapping. -/
theorem toNat_add_ofNat {w : Word} {n : Nat} (h : w.toNat + n ≤ 0xFFFFFFFF) :
    (w + BitVec.ofNat 32 n).toNat = w.toNat + n := by
  rw [BitVec.toNat_add, BitVec.toNat_ofNat]
  omega

/-- The frame numbered `s` carries its payload of the sequence `l`, the first of which is numbered `b`. -/
def Carries (c : Config) (b : Nat) (l : List (List Byte)) (s : Word) (f : Frame) : Prop :=
  b ≤ s.toNat ∧ ∃ p, l[s.toNat - b]? = some p ∧ f = dataFrame c s p

/-- More messages at the end change no payload already there. -/
theorem Carries.append {c : Config} {b : Nat} {l : List (List Byte)} {s : Word} {f : Frame} (h : Carries c b l s f)
    (l' : List (List Byte)) : Carries c b (l ++ l') s f := by
  obtain ⟨hb, p, hp, hf⟩ := h
  exact ⟨hb, p, by rw [List.getElem?_append_left (List.getElem?_eq_some_iff.1 hp).1, hp], hf⟩

/-- The message of an entry. -/
def QEntry.message (m : QEntry) : Word × List Byte := (m.len, m.data)

/-- The payloads still to be cut from a queue: those of the head message from the cursor on, then whole messages. -/
inductive Snd.ToCut (c : Config) : List QEntry → Word → List (List Byte) → Prop where
  | done (off : Word) : Snd.ToCut c [] off []
  | head {m : QEntry} {ms : List QEntry} {off : Word} {k : Nat} (hk : k < fragmentCount c m.len.toNat)
      (hoff : off.toNat = cutBytes c m.len.toNat k) :
      Snd.ToCut c (m :: ms) off ((fragmentsOf c m.message).drop k ++ fragments c (ms.map QEntry.message))

theorem Snd.ToCut.start (c : Config) (q : List QEntry) : Snd.ToCut c q 0 (fragments c (q.map QEntry.message)) := by
  cases q with
  | nil => exact .done 0
  | cons m ms => exact .head (k := 0) (fragmentCount_pos c _) rfl

/-- Nothing is left to cut exactly of an empty queue. -/
theorem Snd.ToCut.queue_eq_nil {c : Config} {q : List QEntry} {off : Word} (h : Snd.ToCut c q off []) : q = [] := by
  generalize hl : ([] : List (List Byte)) = l at h
  cases h with
  | done => rfl
  | @head m ms _ k hk hoff =>
    rw [drop_fragmentsOf (m := m.message) hk] at hl
    cases hl

theorem Snd.ToCut.eq_nil {c : Config} {off : Word} {l : List (List Byte)} (h : Snd.ToCut c [] off l) : l = [] := by
  cases h
  rfl

/-- A message at the tail is cut last. -/
theorem Snd.ToCut.append {c : Config} {q : List QEntry} {off : Word} {l : List (List Byte)} (h : Snd.ToCut c q off l)
    (hidle : q = [] → off = 0) (m : QEntry) : Snd.ToCut c (q ++ [m]) off (l ++ fragmentsOf c m.message) := by
  cases h with
  | done off =>
    rw [hidle rfl]
    have h := Snd.ToCut.start c [m]
    rwa [List.map_singleton, fragments, List.flatMap_singleton] at h
  | @head m' ms _ k hk hoff =>
    have h := Snd.ToCut.head (ms := ms ++ [m]) hk hoff
    rwa [List.map_append, List.map_singleton, fragments_snoc, ← List.append_assoc] at h

/-! ### One cut -/

/-- A fragment is the message bytes from the cursor on, behind the message's length in the first (42_sender.md
R176). -/
theorem Snd.fragment_bytes (c : Config) (u : Snd) (m : QEntry) :
    (u.fragment c m).1 =
      (if u.curOff = 0 then put32 m.len else []) ++ bytesFrom m.data u.curOff.toNat (u.fragment c m).2 := by
  unfold Snd.fragment
  split
  case isTrue h0 => rw [h0]; rfl
  case isFalse => rfl

/-- The cursor is at a message's start before the first fragment alone. -/
theorem cutBytes_eq_zero_iff {c : Config} (hc : c.legal = true) {len k : Nat} (hk : k < fragmentCount c len) :
    cutBytes c len k = 0 ↔ k = 0 := by
  have hpay := maxPayload_bounds hc
  cases k with
  | zero => simp [cutBytes_zero]
  | succ k =>
    rw [(cutBytes_of_more hc hk).1]
    omega

/-- With the cursor before fragment `k` the next cut is of the bytes of fragment `k` (42_sender.md R176, R178). -/
theorem Snd.fragment_count_eq {c : Config} (hc : c.legal = true) {u : Snd} {m : QEntry} {k : Nat}
    (hk : k < fragmentCount c m.len.toNat) (hoff : u.curOff.toNat = cutBytes c m.len.toNat k) :
    (u.curOff = 0 ↔ k = 0) ∧
      (u.fragment c m).2 = cutBytes c m.len.toNat (k + 1) - cutBytes c m.len.toNat k := by
  have hzero : u.curOff = 0 ↔ k = 0 := by
    rw [← cutBytes_eq_zero_iff hc hk, ← hoff, ← BitVec.toNat_inj]
    rfl
  refine ⟨hzero, ?_⟩
  rw [u.fragment_count]
  cases k with
  | zero => simp [hzero.2 rfl, cutBytes]
  | succ k =>
    rw [if_neg fun h => Nat.succ_ne_zero k (hzero.1 h), hoff, (cutBytes_of_more hc hk).1, cutBytes,
      if_neg (Nat.succ_ne_zero _), Nat.add_sub_cancel, Nat.add_mul]
    omega

theorem Snd.fragment_payload {c : Config} (hc : c.legal = true) {u : Snd} {m : QEntry}
    (hdata : m.data.length = m.len.toNat) {k : Nat} (hk : k < fragmentCount c m.len.toNat)
    (hoff : u.curOff.toNat = cutBytes c m.len.toNat k) :
    u.fragmentFrame c m = dataFrame c u.nextSeq (fragmentPayload c m.len m.data k) := by
  obtain ⟨hzero, hcount⟩ := Snd.fragment_count_eq hc hk hoff
  have hbytes : (u.fragment c m).1 = fragmentPayload c m.len m.data k := by
    rw [u.fragment_bytes, fragmentPayload_eq hc hdata hk, hcount, hoff, if_congr hzero rfl rfl, cutPart, hdata]
    rfl
  have hlen : u.fragmentLength c m = BitVec.ofNat 8 (fragmentPayload c m.len m.data k).length := by
    rw [← hbytes, (u.fragment_fits hc hdata).2, BitVec.ofNat_toNat, BitVec.setWidth_eq]
  rw [Snd.fragmentFrame, dataFrame, hlen, hbytes]

/-- One iteration of WINDOW_FILL's loop cuts the first payload of those still to be cut (42_sender.md R176, R178). -/
theorem Snd.ToCut.fillOne {c : Config} (hc : c.legal = true) {u : Snd} {m : QEntry} {ms : List QEntry}
    {l : List (List Byte)} (hq : u.q = m :: ms) (hdata : m.data.length = m.len.toNat) (h : Snd.ToCut c u.q u.curOff l) :
    ∃ p l', l = p :: l' ∧ u.fragmentFrame c m = dataFrame c u.nextSeq p ∧
      Snd.ToCut c (u.fillOne c m).q (u.fillOne c m).curOff l' := by
  rw [hq] at h
  generalize hcur : u.curOff = off at h
  cases h with
  | @head _ _ _ k hk hoff =>
    subst hcur
    refine ⟨_, _, by rw [drop_fragmentsOf (m := m.message) hk]; rfl, Snd.fragment_payload hc hdata hk hoff, ?_⟩
    obtain ⟨hzero, hcount⟩ := Snd.fragment_count_eq hc hk hoff
    have hlt : u.curOff = 0 ∨ u.curOff.toNat < m.len.toNat := by
      cases k with
      | zero => exact .inl (hzero.2 rfl)
      | succ k =>
        rw [hoff]
        exact .inr (cutBytes_of_more hc hk).2
    have hnext : (u.curOff + BitVec.ofNat 32 (u.fragment c m).2).toNat = cutBytes c m.len.toNat (k + 1) := by
      rw [Snd.toNat_curOff_add hlt, hcount, hoff, Nat.add_sub_cancel' cutBytes_mono]
    rcases Nat.lt_or_ge (k + 1) (fragmentCount c m.len.toNat) with hmore | hlast
    · rcases u.fillOne_cases c m with ⟨hdone, -⟩ | ⟨-, hq', -, hoff'⟩
      · rw [hdone] at hnext
        exact absurd hnext (cutBytes_of_more hc hmore).2.ne'
      · rw [hq', hoff', hq]
        exact .head hmore hnext
    · rcases u.fillOne_cases c m with ⟨-, hq', -, hoff'⟩ | ⟨hne, -⟩
      · rw [hq', hoff', hq, drop_fragmentsOf_end (m := m.message) hlast]
        exact .start c ms
      · refine absurd (BitVec.eq_of_toNat_eq ?_) hne
        rw [hnext, cutBytes_of_last hc (by omega)]

/-! ### A sender and the sequence it sends -/

/-- The sender cuts the sequence `l`, its first payload numbered `b`: what is left of `l` is still to be cut, and every
frame outstanding carries its payload. -/
structure Snd.Streams (c : Config) (b : Nat) (l : List (List Byte)) (u : Snd) : Prop where
  start : b ≤ u.ackExpected.toNat
  within : u.nextSeq.toNat ≤ b + l.length
  rest : Snd.ToCut c u.q u.curOff (l.drop (u.nextSeq.toNat - b))
  window : ∀ s : Word, u.ackExpected.toNat ≤ s.toNat → s.toNat < u.nextSeq.toNat → Carries c b l s (u.winAt c s)

theorem Snd.Streams.fillOne {c : Config} (hc : c.legal = true) {b : Nat} {l : List (List Byte)} {u : Snd} {m : QEntry}
    {ms : List QEntry} (h : u.Streams c b l) (hu : u.FillInv c) (hq : u.q = m :: ms) (hroom : u.nbuffered < c.window)
    (hnum : u.nextSeq ≠ noneYet) : (u.fillOne c m).Streams c b l := by
  have hdata := (hu.queue.entries m (by simp [hq])).1
  obtain ⟨hcounted, -, hordered, -⟩ := hu.window
  have hstart := h.start
  obtain ⟨p, l', hl, hframe, hrest⟩ := h.rest.fillOne hc hq hdata
  obtain ⟨hseq, -, -, hwin⟩ := u.fillOne_window c m
  have hack := (u.fillOne_sameOutside c m).ackExpected
  have hsucc : (u.fillOne c m).nextSeq.toNat = u.nextSeq.toNat + 1 := by
    rw [hseq]
    bv_omega
  have hlt : u.nextSeq.toNat - b < l.length := by
    have := congrArg List.length hl
    rw [List.length_drop, List.length_cons] at this
    omega
  rw [List.drop_eq_getElem_cons hlt] at hl
  obtain ⟨rfl, rfl⟩ := List.cons.inj hl
  refine ⟨by rw [hack]; exact hstart, by omega, ?_, fun s hge hs => ?_⟩
  · rwa [hsucc, Nat.sub_add_comm (by omega)]
  · rw [Snd.winAt, hwin]
    rw [hack] at hge
    by_cases he : s = u.nextSeq
    · subst he
      rw [Store.read_write_same hu.stores.canonical]
      exact ⟨by omega, _, List.getElem?_eq_getElem hlt, hframe⟩
    · have hs' : s.toNat < u.nextSeq.toNat := by bv_omega
      have hslot : slotOf c s ≠ slotOf c u.nextSeq := fun he => hs'.ne' (eq_of_mod_eq_of_lt hs'.le (by omega) he.symm)
      rw [Store.read_write_other hslot]
      exact h.window s hge hs'

theorem Snd.Streams.cuts {c : Config} (hc : c.legal = true) {b n : Nat} {l : List (List Byte)} {u v : Snd}
    (h : u.Streams c b l) (hu : u.FillInv c) (hcuts : Snd.Cuts c n u v) : v.Streams c b l := by
  induction hcuts with
  | stay => exact h
  | turn hq hroom hnum _ ih => exact ih (h.fillOne hc hu hq hroom hnum) (hu.fillOne hc hq hroom hnum)

/-- A message taken into the queue is cut after all there is. -/
theorem Snd.Streams.enqueue {c : Config} {b : Nat} {l : List (List Byte)} {u v : Snd} {m : QEntry} (h : u.Streams c b l)
    (hidle : u.q = [] → u.curOff = 0) (hq : v.q = u.q ++ [m]) (hcur : v.curOff = u.curOff)
    (hack : v.ackExpected = u.ackExpected) (hnext : v.nextSeq = u.nextSeq) (hwin : v.win = u.win) :
    v.Streams c b (l ++ fragmentsOf c m.message) := by
  have hwithin := h.within
  refine ⟨hack ▸ h.start, ?_, ?_, fun s hge hlt => ?_⟩
  · rw [hnext, List.length_append]
    omega
  · rw [hq, hcur, hnext, List.drop_append_of_le_length (by omega)]
    exact h.rest.append hidle m
  · rw [Snd.winAt, hwin]
    exact (h.window s (hack ▸ hge) (hnext ▸ hlt)).append _

/-- The frames sent are the window's, each with its payload. -/
theorem Snd.Streams.sends {c : Config} {b : Nat} {l : List (List Byte)} {u : Snd} (h : u.Streams c b l) {a : Word}
    (ha : u.ackExpected.toNat ≤ a.toNat) {f : Frame} (hf : Action.sendFrame f ∈ sends c u a u.nextSeq) :
    ∃ s, Carries c b l s f := by
  obtain ⟨k, hk, he⟩ := List.mem_map.1 hf
  have hk := List.mem_range.1 hk
  have hmax := u.nextSeq.isLt
  have hs : (BitVec.ofNat 32 (a.toNat + k)).toNat = a.toNat + k := by
    rw [BitVec.toNat_ofNat, Nat.mod_eq_of_lt (by omega)]
  have hcarry := h.window (BitVec.ofNat 32 (a.toNat + k)) (by omega) (by omega)
  rw [Snd.winAt, slotOf, hs, Action.sendFrame.inj he] at hcarry
  exact ⟨_, hcarry⟩

end Sys2Proof.Machine
end

section
/-! Segmentation (42_sender.md R178): an idle sender with room and numbers enough cuts a whole message. -/

namespace Sys2Proof.Machine

/-- An empty queue has room: a legal build has a queue (00_scope.md R9). -/
theorem queue_has_room {c : Config} (hc : c.legal = true) {q : List QEntry} (hq : q = []) : q.length ≠ c.queueCap := by
  simp only [Config.legal, Bool.and_eq_true, decide_eq_true_eq] at hc
  rw [hq, List.length_nil]
  omega

/-- What an idle sender is before its fill of a message: the sequence is the message's fragments, the first of them
numbered `next_seq`. -/
theorem Snd.Inv.streams_idle {c : Config} {u : Snd} (h : u.Inv c) (hstop : u.tmrRun = false) (hq : u.q = []) :
    u.Streams c u.nextSeq.toNat [] := by
  have hnone := h.nbuffered_of_stopped hstop
  have hcounted := h.counted
  have hordered := h.ordered
  refine ⟨by omega, by simp, ?_, fun s hge hlt => by omega⟩
  rw [hq, List.drop_nil]
  exact .done _

/-- The fill of a message that fits the window and the numbers left of an idle sender cuts all of it, and TRANSMIT
runs. -/
theorem Snd.Inv.windowFill_enqueued {c : Config} (hc : c.legal = true) {u : Snd} (hst : u.StoreInv c) (h : u.Inv c)
    {len : Word} {data : List Byte} (hstop : u.tmrRun = false) (hq : u.q = []) (hdata : data.length = len.toNat)
    (hlen : len.toNat ≤ c.msgMax) (hfits : fragmentCount c len.toNat ≤ c.window)
    (hnum : u.nextSeq.toNat + fragmentCount c len.toNat ≤ 0xFFFFFFFF) :
    ∃ v, (u.enqueued len data).windowFill c =
        ⟨{ v with nextToTransmit := v.nextSeq }, Machine.sends c v u.nextSeq v.nextSeq, none⟩ ∧
      (u.enqueued len data).SameOutside v ∧ v.q = [] ∧ v.FillInv c ∧
      v.nextSeq.toNat = u.nextSeq.toNat + fragmentCount c len.toNat ∧ v.nbuffered = fragmentCount c len.toNat ∧
      v.Streams c u.nextSeq.toNat (fragmentsOf c (len, data)) := by
  have hpos := fragmentCount_pos c len.toNat
  have hfill := h.enqueued hc hst hdata hlen (queue_has_room hc hq)
  have hstream : (u.enqueued len data).Streams c u.nextSeq.toNat (fragmentsOf c (len, data)) :=
    (h.streams_idle hstop hq).enqueue (v := u.enqueued len data) (m := ⟨u.msgNext, len, data⟩) h.cursorIdle
      rfl rfl rfl rfl rfl
  obtain ⟨n, v, hcuts, hend⟩ := (u.enqueued len data).windowFill_ends c
  obtain ⟨hsame, htransmit⟩ := hcuts.sameOutside
  obtain ⟨hnext, hcount⟩ := hcuts.counted
  have hnext : v.nextSeq.toNat = u.nextSeq.toNat + n := hnext
  have hcount : v.nbuffered = n := by
    rw [hcount]
    show u.nbuffered + n = n
    rw [h.nbuffered_of_stopped hstop, Nat.zero_add]
  have hv := hstream.cuts hc hfill hcuts
  have hle := hv.within
  have hrest := hv.rest
  rw [length_fragmentsOf] at hle
  rw [hnext, Nat.add_sub_cancel_left] at hrest
  have hall : fragmentCount c len.toNat ≤ n → v.q = [] := fun hge => by
    rw [drop_fragmentsOf_end (m := (len, data)) hge] at hrest
    exact hrest.queue_eq_nil
  have hmin : v.q = [] → fragmentCount c len.toNat ≤ n := fun hnil => by
    rw [hnil] at hrest
    have := congrArg List.length hrest.eq_nil
    rw [List.length_drop, length_fragmentsOf, List.length_nil] at this
    exact Nat.sub_eq_zero_iff_le.1 this
  have hle : n ≤ fragmentCount c len.toNat := Nat.le_of_add_le_add_left (hnext ▸ hle)
  rcases hend with ⟨hend, e⟩ | ⟨hne, -, hlast, -⟩
  · have hn : n = fragmentCount c len.toNat := by
      refine Nat.le_antisymm hle ?_
      rcases hend with hnil | hfull
      · exact hmin hnil
      · omega
    rw [htransmit, show (u.enqueued len data).nextToTransmit = u.nextSeq from h.transmitted] at e
    exact ⟨v, e, hsame, hall hn.ge, hcuts.fillInv hc hfill, hn ▸ hnext, hn ▸ hcount, hv⟩
  · refine absurd (hall ?_) hne
    have : v.nextSeq.toNat = 0xFFFFFFFF := by rw [hlast]; rfl
    omega

/-- The frames that carry a whole message, as they are sent. -/
theorem Snd.Streams.sends_eq {c : Config} {v : Snd} {b : Word} {len : Word} {data : List Byte}
    (h : v.Streams c b.toNat (fragmentsOf c (len, data))) (hack : v.ackExpected = b)
    (hnext : v.nextSeq.toNat = b.toNat + fragmentCount c len.toNat) :
    Machine.sends c v b v.nextSeq = (List.range (fragmentCount c len.toNat)).map fun k =>
      .sendFrame (dataFrame c (b + BitVec.ofNat 32 k) (fragmentPayload c len data k)) := by
  have hmax := v.nextSeq.isLt
  rw [Machine.sends, hnext, Nat.add_sub_cancel_left]
  refine List.map_congr_left fun k hk => ?_
  have hk := List.mem_range.1 hk
  have hs : (b + BitVec.ofNat 32 k).toNat = b.toNat + k := toNat_add_ofNat (by omega)
  obtain ⟨-, p, hp, hf⟩ := h.window (b + BitVec.ofNat 32 k) (by rw [hack]; omega) (by omega)
  rw [hs, Nat.add_sub_cancel_left] at hp
  have hp : fragmentPayload c len data k = p := by
    simpa [fragmentsOf, hk] using hp
  rw [← hs, hp, ← hf]
  rfl

/-- Settles O22: the fill ends with nothing left to cut, and the frames sent are those of the message's payloads. -/
theorem idleSenderSegmentsTheMessage : Obligations.IdleSenderSegmentsTheMessage := by
  intro s len data hs hm hstop hq hdata hlen hfits hnum
  have hu := hs.snd hm
  obtain ⟨v, e, hsame, hvq, hfill, hnext, hcount, hv⟩ :=
    hu.windowFill_enqueued hs.legal hs.sndStores hstop hq hdata hlen hfits hnum
  have hack0 : s.snd.ackExpected = s.snd.nextSeq := by
    have := hu.nbuffered_of_stopped hstop
    have hcounted := hu.counted
    have hordered := hu.ordered
    exact BitVec.eq_of_toNat_eq (by omega)
  have hack : v.ackExpected = s.snd.nextSeq := hsame.ackExpected.trans hack0
  have hnext' : v.nextSeq = s.snd.nextSeq + BitVec.ofNat 32 (fragmentCount s.cfg len.toNat) :=
    BitVec.eq_of_toNat_eq (hnext.trans (toNat_add_ofNat hnum).symm)
  have hmsg : v.curMsgSeq = s.snd.curMsgSeq + 1 := by
    have hvc := hfill.queue.counted
    have hsc := hu.queueCounted
    have hvn : v.msgNext = s.snd.msgNext + 1 := hsame.msgNext
    rw [hvq, hvn, List.length_nil] at hvc
    rw [Snd.qCount, hq, List.length_nil] at hsc
    bv_omega
  refine ⟨_, exec_sndMsg_of_stopped hm hdata hlen (queue_has_room hs.legal hq) hstop e, ?_,
    fun k _ => length_fragmentPayload_le hs.legal _ _ _, ?_⟩
  · show _ :: Machine.sends _ _ _ _ = _
    rw [hv.sends_eq hack hnext]
    rfl
  · have hcur := hfill.queue.cursorIdle hvq
    have hcur0 := hu.cursorIdle hq
    simp only [State.endSnd, State.settle, Snd.mk.injEq]
    exact ⟨hsame.mode, hsame.fault, hsame.ackExpected, hnext', hnext', hcount, hsame.msgNext, hmsg,
      hcur.trans hcur0.symm, hsame.tmrRun, hvq.trans hq.symm, trivial⟩

end Sys2Proof.Machine
end

section
/-! A receiver as the sink of a sequence of payloads (43_receiver.md R215, R218): which messages it has still to
deliver, and that no frame of the sequence halts it. -/

namespace Sys2Proof.Machine

/-! ### The frame of a payload -/

theorem dataFrame_seq (c : Config) (s : Word) (p : List Byte) : le32 (dataFrame c s p) 2 = s :=
  frmParse_frmData_seq c s _ p

theorem length_dataFrame {c : Config} (hc : c.legal = true) (s : Word) {p : List Byte} (hp : p.length ≤ c.maxPayload) :
    (dataFrame c s p).length = c.frameSize :=
  length_frmData c s _ p (by have := (legal_bounds hc).1; omega) hp

theorem plen_dataFrame {c : Config} (hc : c.legal = true) (s : Word) {p : List Byte} (hp : p.length ≤ c.maxPayload) :
    (byteAt (dataFrame c s p) 6).toNat = p.length := by
  have hmax := (maxPayload_bounds hc).2
  have hplen := congrArg Fields.plen (frmParse_frmData c s (BitVec.ofNat 8 p.length) p)
  rw [show byteAt (dataFrame c s p) 6 = BitVec.ofNat 8 p.length from hplen, BitVec.toNat_ofNat]
  omega

/-- The payload area: the payload, then PAD (41_framer.md R151). -/
theorem drop_dataFrame (c : Config) (s : Word) (p : List Byte) :
    (dataFrame c s p).drop 7 = p ++ List.replicate (c.maxPayload - p.length) c.pad :=
  congrArg Fields.payload (frmParse_frmData c s (BitVec.ofNat 8 p.length) p)

/-- The message's length and the message bytes of a first fragment's frame (42_sender.md R178). -/
theorem dataFrame_first (c : Config) (s len : Word) (bytes : List Byte) :
    le32 (dataFrame c s (put32 len ++ bytes)) 7 = len ∧
      ((dataFrame c s (put32 len ++ bytes)).drop 11).take bytes.length = bytes := by
  have hdrop := drop_dataFrame c s (put32 len ++ bytes)
  rw [List.append_assoc] at hdrop
  constructor
  · rw [← le32_frmParse_payload]
    show le32 ((dataFrame c s (put32 len ++ bytes)).drop 7) 0 = len
    rw [hdrop, le32_put32_append]
  · rw [show 11 = 7 + 4 from rfl, ← List.drop_drop, hdrop, ← length_put32 len, List.drop_left, List.take_left]

/-! ### The messages still to be delivered -/

/-- The receiver has the messages `ms` still to deliver and the payloads `l` still to take: whole messages, or behind
the first `k` fragments of one in reassembly. -/
inductive Rcv.Awaits (c : Config) (r : Rcv) : List (Word × List Byte) → List (List Byte) → Prop where
  | idle (ms : List (Word × List Byte)) (hact : r.asmActive = false) : Rcv.Awaits c r ms (fragments c ms)
  | busy {m : Word × List Byte} {ms : List (Word × List Byte)} {k : Nat} (hpos : 0 < k)
      (hk : k < fragmentCount c m.1.toNat) (hact : r.asmActive = true) (hsize : r.asmSize = m.1)
      (hoff : r.asmOff.toNat = cutBytes c m.1.toNat k)
      (hbuf : r.asmBuf.readBytes 0 (cutBytes c m.1.toNat k) = m.2.take (cutBytes c m.1.toNat k)) :
      Rcv.Awaits c r (m :: ms) ((fragmentsOf c m).drop k ++ fragments c ms)

theorem Rcv.Awaits.congr {c : Config} {r v : Rcv} {ms : List (Word × List Byte)} {l : List (List Byte)}
    (h : r.Awaits c ms l) (hact : v.asmActive = r.asmActive) (hsize : v.asmSize = r.asmSize)
    (hoff : v.asmOff = r.asmOff) (hbuf : v.asmBuf = r.asmBuf) : v.Awaits c ms l := by
  cases h with
  | idle ms ha => exact .idle ms (hact.trans ha)
  | busy hpos hk ha hs ho hb =>
    exact .busy hpos hk (hact.trans ha) (hsize.trans hs) (by rw [hoff, ho]) (by rw [hbuf, hb])

/-- A message at the end is delivered last. -/
theorem Rcv.Awaits.append {c : Config} {r : Rcv} {ms : List (Word × List Byte)} {l : List (List Byte)}
    (h : r.Awaits c ms l) (m : Word × List Byte) : r.Awaits c (ms ++ [m]) (l ++ fragmentsOf c m) := by
  cases h with
  | idle ms hact =>
    rw [← fragments_snoc]
    exact .idle _ hact
  | busy hpos hk hact hsize hoff hbuf =>
    rw [List.append_assoc, ← fragments_snoc]
    exact .busy hpos hk hact hsize hoff hbuf

/-- With no payload left every message is delivered and the accumulator is Idle. -/
theorem Rcv.Awaits.eq_nil {c : Config} {r : Rcv} {ms : List (Word × List Byte)} (h : r.Awaits c ms []) :
    ms = [] ∧ r.asmActive = false := by
  generalize hl : ([] : List (List Byte)) = l at h
  cases h with
  | idle ms hact =>
    cases ms with
    | nil => exact ⟨rfl, hact⟩
    | cons m ms =>
      rw [fragments_cons, ← List.drop_zero (l := fragmentsOf c m), drop_fragmentsOf (fragmentCount_pos c _)] at hl
      cases hl
  | busy _ hk =>
    rw [drop_fragmentsOf hk] at hl
    cases hl

/-! ### CONSUME of the next payload -/

/-- With fragment `k` accumulated the message goes on, or it is delivered as it was handed over (43_receiver.md R215,
R218). -/
theorem Rcv.Awaits.of_accumulate {c : Config} (hc : c.legal = true) {r : Rcv} (hw : r.asmBuf.wf)
    {m : Word × List Byte} (ms : List (Word × List Byte)) {k : Nat} (hwhole : m.2.length = m.1.toNat)
    (hk : k < fragmentCount c m.1.toNat)
    (hbuf : r.asmBuf.readBytes 0 (cutBytes c m.1.toNat k) = m.2.take (cutBytes c m.1.toNat k)) :
    let p := (r.accumulate (cutBytes c m.1.toNat k) (cutPart c m.2 k) m.1).deliverIfComplete
    ∃ ms', m :: ms = deliveredMessages p.out ++ ms' ∧
      p.unit.Awaits c ms' ((fragmentsOf c m).drop (k + 1) ++ fragments c ms) := by
  intro p
  have hlen := m.1.isLt
  have hle := cutBytes_le c m.1.toNat (k + 1)
  have hend : cutBytes c m.1.toNat k + (cutPart c m.2 k).length = cutBytes c m.1.toNat (k + 1) := by
    rw [length_cutPart, hwhole, Nat.add_sub_cancel' cutBytes_mono]
  have hbytes : r.asmBuf.readBytes 0 (cutBytes c m.1.toNat k) ++ cutPart c m.2 k =
      m.2.take (cutBytes c m.1.toNat (k + 1)) := by
    have := take_cutBytes_append c m.2 k cutBytes_mono
    rwa [hwhole, ← hbuf] at this
  rcases Rcv.accumulate_deliver hw (off := cutBytes c m.1.toNat k) (bytes := cutPart c m.2 k) (size := m.1) (by omega)
    with ⟨hlt, e⟩ | ⟨heq, e⟩
  · have hmore : k + 1 < fragmentCount c m.1.toNat := by
      refine Nat.lt_of_le_of_ne hk fun hlast => ?_
      rw [hend, cutBytes_of_last hc hlast] at hlt
      exact Nat.lt_irrefl _ hlt
    rw [show p = _ from e]
    refine ⟨m :: ms, rfl, .busy (Nat.succ_pos k) hmore rfl rfl ?_ ?_⟩
    · show (BitVec.ofNat 32 _).toNat = _
      rw [hend, BitVec.toNat_ofNat, Nat.mod_eq_of_lt (by omega)]
    · rw [← hbytes, ← hend]
      exact Memory.readBytes_writeBytes hw _ _
  · have hlast : fragmentCount c m.1.toNat ≤ k + 1 := by
      refine Nat.le_of_not_lt fun hmore => ?_
      rw [hend] at heq
      exact (cutBytes_of_more hc hmore).2.ne heq
    rw [show p = _ from e, hbytes, ← hend, heq, ← hwhole, List.take_length, drop_fragmentsOf_end hlast]
    exact ⟨ms, rfl, .idle ms rfl⟩

/-- The next payload waited for is a first fragment with the accumulator Idle, or the one after those in it. -/
theorem Rcv.Awaits.next {c : Config} {r : Rcv} {ms : List (Word × List Byte)} {p : List Byte} {l : List (List Byte)}
    (h : r.Awaits c ms (p :: l)) :
    ∃ m ms' k, ms = m :: ms' ∧ k < fragmentCount c m.1.toNat ∧ p = fragmentPayload c m.1 m.2 k ∧
      l = (fragmentsOf c m).drop (k + 1) ++ fragments c ms' ∧
      r.asmBuf.readBytes 0 (cutBytes c m.1.toNat k) = m.2.take (cutBytes c m.1.toNat k) ∧
      ((k = 0 ∧ r.asmActive = false) ∨
        (0 < k ∧ r.asmActive = true ∧ r.asmSize = m.1 ∧ r.asmOff.toNat = cutBytes c m.1.toNat k)) := by
  generalize hl : p :: l = l' at h
  cases h with
  | idle ms hact =>
    cases ms with
    | nil => cases hl
    | cons m ms =>
      have hk := fragmentCount_pos c m.1.toNat
      rw [fragments_cons, ← List.drop_zero (l := fragmentsOf c m), drop_fragmentsOf hk] at hl
      obtain ⟨rfl, rfl⟩ := List.cons.inj hl
      exact ⟨m, ms, 0, rfl, hk, rfl, rfl, rfl, .inl ⟨rfl, hact⟩⟩
  | @busy m ms k hpos hk hact hsize hoff hbuf =>
    rw [drop_fragmentsOf hk] at hl
    obtain ⟨rfl, rfl⟩ := List.cons.inj hl
    exact ⟨m, ms, k, rfl, hk, rfl, rfl, hbuf, .inr ⟨hpos, hact, hsize, hoff⟩⟩

/-- The receiver takes the frame of the next payload it waits for, and delivers what that completes (43_receiver.md
R215, R218). -/
theorem Rcv.Awaits.consume {c : Config} (hc : c.legal = true) {r : Rcv} (hw : r.asmBuf.wf)
    {ms : List (Word × List Byte)} (hwhole : ∀ m ∈ ms, m.2.length = m.1.toNat ∧ m.1.toNat ≤ c.msgMax) {p : List Byte}
    {l : List (List Byte)} (h : r.Awaits c ms (p :: l)) (s : Word) :
    ¬ Malformed c r (dataFrame c s p) ∧
      ∃ ms', ms = deliveredMessages (r.consume c (dataFrame c s p)).out ++ ms' ∧
        (r.consume c (dataFrame c s p)).unit.Awaits c ms' l := by
  obtain ⟨m, ms, k, rfl, hk, rfl, rfl, hbuf, hasm⟩ := h.next
  obtain ⟨hm, hmax⟩ := hwhole m List.mem_cons_self
  have hfit := length_fragmentPayload_le hc m.1 m.2 k
  have hplen := plen_dataFrame hc s hfit
  have hsize := length_dataFrame hc s hfit
  have hpart : (cutPart c m.2 k).length = cutBytes c m.1.toNat (k + 1) - cutBytes c m.1.toNat k := by
    rw [length_cutPart, hm]
  have hle := cutBytes_le c m.1.toNat (k + 1)
  have hmono := cutBytes_mono (c := c) (len := m.1.toNat) (k := k)
  have hpayload := fragmentPayload_eq hc hm hk
  have hacc := Rcv.Awaits.of_accumulate hc hw ms hm hk hbuf
  rcases hasm with ⟨rfl, hact⟩ | ⟨hpos, hact, hasize, haoff⟩
  · rw [if_pos rfl] at hpayload
    obtain ⟨hlen, hbytes⟩ := dataFrame_first c s m.1 (cutPart c m.2 0)
    rw [hpayload, List.length_append, length_put32] at hplen hfit
    rw [hpayload] at hsize ⊢
    have hok : ¬ Malformed c r (dataFrame c s (put32 m.1 ++ cutPart c m.2 0)) := by
      have hcut : cutBytes c m.1.toNat 1 = 0 → m.1.toNat = 0 := by
        have hpay := maxPayload_bounds hc
        simp only [cutBytes, if_neg Nat.one_ne_zero]
        omega
      rw [Nat.zero_add] at hle hpart
      simp only [Malformed, hact, hplen, hlen, cutBytes_zero] at hpart ⊢
      simp only [true_and, Bool.false_eq_true, false_and, or_false]
      omega
    refine ⟨hok, ?_⟩
    rw [(Rcv.consume_first hc hsize hact hok).2.2, hplen, hlen, Nat.add_sub_cancel_left, hbytes]
    exact hacc
  · rw [if_neg hpos.ne', List.nil_append] at hpayload
    rw [hpayload] at hplen hfit hsize ⊢
    have hok : ¬ Malformed c r (dataFrame c s (cutPart c m.2 k)) := by
      simp only [Malformed, hact, hplen, hasize, haoff]
      simp only [true_and, Bool.true_eq_false, false_and, false_or]
      omega
    refine ⟨hok, ?_⟩
    rw [(Rcv.consume_next hc hsize hact hok).2.2, hplen, haoff, hasize, drop_dataFrame, List.take_left]
    exact hacc

/-! ### A receiver and the sequence it takes -/

/-- The receiver takes the sequence `l`, its first payload numbered `b`, and has the messages `ms` still to deliver:
what is left of `l` makes them up, and every frame held carries its payload. -/
structure Rcv.Streams (c : Config) (b : Nat) (l : List (List Byte)) (ms : List (Word × List Byte)) (r : Rcv) : Prop where
  start : b ≤ r.expected.toNat
  whole : ∀ m ∈ ms, m.2.length = m.1.toNat ∧ m.1.toNat ≤ c.msgMax
  rest : r.Awaits c ms (l.drop (r.expected.toNat - b))
  held : ∀ i, Store.read false r.occ i = true →
    Carries c b l (le32 (Store.read (blankFrame c) r.rwin i) 2) (Store.read (blankFrame c) r.rwin i)

/-- The frame numbered `expected` carries the next payload waited for. -/
theorem Rcv.Streams.consume {c : Config} (hc : c.legal = true) {b : Nat} {l : List (List Byte)}
    {ms : List (Word × List Byte)} {r v : Rcv} (h : r.Streams c b l ms) (hw : r.asmBuf.wf) {f : Frame}
    (hf : Carries c b l r.expected f) (hasm : v.asmActive = r.asmActive ∧ v.asmSize = r.asmSize ∧
      v.asmOff = r.asmOff ∧ v.asmBuf = r.asmBuf) :
    ¬ Malformed c v f ∧ ∃ ms', ms = deliveredMessages (v.consume c f).out ++ ms' ∧
      (v.consume c f).unit.Awaits c ms' (l.drop (r.expected.toNat + 1 - b)) := by
  obtain ⟨hb, p, hp, rfl⟩ := hf
  obtain ⟨hact, hsize, hoff, hbuf⟩ := hasm
  obtain ⟨hlt, rfl⟩ := List.getElem?_eq_some_iff.1 hp
  have hrest := h.rest.congr hact hsize hoff hbuf
  rw [List.drop_eq_getElem_cons hlt] at hrest
  rw [Nat.sub_add_comm hb]
  exact hrest.consume hc (hbuf ▸ hw) h.whole r.expected

/-- A pass of DRAIN takes the next payload: it cannot be malformed (43_receiver.md R214, R218). -/
theorem Rcv.Streams.pass {c : Config} (hc : c.legal = true) {b k : Nat} {l : List (List Byte)}
    {ms : List (Word × List Byte)} {r : Rcv} (h : r.Streams c b l ms) (hinv : r.DrainInv c k) (hk : k ≤ c.window)
    (hocc : r.occAt c r.expected = true) :
    ¬ Malformed c r (r.rwinAt c r.expected) ∧
      ∃ ms', ms = deliveredMessages (r.takeExpected c).out ++ ms' ∧ (r.pass c).Streams c b l ms' := by
  obtain ⟨hseq, hmax⟩ := hinv.held.seq_expected hk hocc
  have hf : Carries c b l r.expected (r.rwinAt c r.expected) := by
    have := h.held _ hocc
    rwa [show le32 (Store.read (blankFrame c) r.rwin (slotOf c r.expected)) 2 = r.expected from
      BitVec.eq_of_toNat_eq hseq] at this
  obtain ⟨hok, ms', hms, hrest⟩ := h.consume hc hinv.sound.stores.asmCanonical hf
    (v := r.setOcc c r.expected false) ⟨rfl, rfl, rfl, rfl⟩
  have hok : ¬ Malformed c r (r.rwinAt c r.expected) := hok
  obtain ⟨-, -, hexp, hpocc, hprwin⟩ := r.pass_fields hok
  have hsucc : (r.pass c).expected.toNat = r.expected.toNat + 1 := by
    rw [hexp]
    bv_omega
  have hstart := h.start
  refine ⟨hok, ms', hms, ?_, fun m hm => h.whole m (hms ▸ List.mem_append_right _ hm), ?_, ?_⟩
  · omega
  · rw [hsucc]
    exact hrest.congr rfl rfl rfl rfl
  · rw [hpocc, hprwin]
    exact fun i hi => h.held i (read_write_false_le hinv.sound.stores.occCanonical _ hi)

theorem Rcv.Streams.passes {c : Config} (hc : c.legal = true) {b k n : Nat} {l : List (List Byte)}
    {ms : List (Word × List Byte)} {r v : Rcv} {out : List Action} (h : r.Streams c b l ms) (hinv : r.DrainInv c k)
    (hk : k ≤ c.window) (hpass : Rcv.Passes c n r out v) :
    ∃ ms', ms = deliveredMessages out ++ ms' ∧ v.Streams c b l ms' := by
  induction hpass generalizing k ms with
  | stay r => exact ⟨ms, rfl, h⟩
  | turn hocc hok rest ih =>
    cases k with
    | zero =>
      rw [hinv.gap_of_zero] at hocc
      cases hocc
    | succ k =>
      obtain ⟨-, ms', rfl, h'⟩ := h.pass hc hinv hk hocc
      obtain ⟨ms'', rfl, hv⟩ := ih h' (hinv.pass hc hk hocc hok) (by omega)
      exact ⟨ms'', by rw [deliveredMessages_append, List.append_assoc], hv⟩

theorem Rcv.Streams.store {c : Config} {b : Nat} {l : List (List Byte)} {ms : List (Word × List Byte)} {r : Rcv}
    (h : r.Streams c b l ms) (hst : r.StoreInv c) (s : Word) {f : Frame} (hf : Carries c b l (le32 f 2) f) :
    (r.store c s f).Streams c b l ms := by
  refine ⟨h.start, h.whole, h.rest.congr rfl rfl rfl rfl, fun i hi => ?_⟩
  rw [Rcv.store_occ, Store.read_write hst.occCanonical] at hi
  rw [Rcv.store_rwin, Store.read_write hst.rwinCanonical]
  by_cases hslot : i = slotOf c s
  · rwa [if_pos hslot]
  · rw [if_neg hslot] at hi ⊢
    exact h.held i hi

/-- RCV.FRAME on a frame of the sequence, or on one that fails validation, raises nothing and delivers the messages
next in order (43_receiver.md R212, R218). -/
theorem Rcv.Streams.onFrame {c : Config} (hc : c.legal = true) {b : Nat} {l : List (List Byte)}
    {ms : List (Word × List Byte)} {r : Rcv} {f : Frame} (h : r.Streams c b l ms) (hst : r.StoreInv c) (hr : r.Inv c)
    (hwhole : f.length = c.frameSize) (hf : chkValidate c f = true → Carries c b l (le32 f 2) f) :
    (r.onFrame c f).raised = none ∧
      ∃ ms', ms = deliveredMessages (r.onFrame c f).out ++ ms' ∧ (r.onFrame c f).unit.Streams c b l ms' := by
  rcases r.onFrame_or_takesNext hwhole with ⟨-, e⟩ | ⟨-, -, e⟩ | ⟨hv, -, -, -, e⟩ | htakes
  · rw [e]
    exact ⟨rfl, ms, rfl, h⟩
  · rw [e]
    exact ⟨rfl, ms, rfl, h⟩
  · rw [e]
    refine ⟨rfl, ms, ?_, h.store hst _ (hf hv)⟩
    split <;> rfl
  · obtain ⟨n, out, v, -, hpass, hinv, hend⟩ := htakes.onFrame_cases hc hst hr
    obtain ⟨ms', hms, hv⟩ :=
      (h.store hst r.expected (hf htakes.valid)).passes hc (htakes.drainInv hc hst hr) le_rfl hpass
    rcases hend with ⟨-, -, e⟩ | ⟨hocc, hmal, -⟩
    · rw [e]
      refine ⟨rfl, ms', ?_, hv⟩
      rw [deliveredMessages_append, hms]
      exact (List.append_assoc _ [] _).symm
    · exact absurd hmal (hv.pass hc hinv (Nat.sub_le _ _) hocc).1

end Sys2Proof.Machine
end

section
/-! Reassembly fidelity (43_receiver.md R218) for one message over a lossless channel: the receiver takes the frames one
after another, and every message they carry is delivered when the last is taken. -/

namespace Sys2Proof.Machine

/-- RCV.FRAME of a READY receiver keeps the sequence: it stays READY and delivers the messages next in order. -/
theorem exec_rcvFrame_streams {s t : State} {b : Nat} {l : List (List Byte)} {ms : List (Word × List Byte)} {f : Frame}
    (hs : s.Inv) (hm : s.rcv.mode = .ready) (h : s.rcv.Streams s.cfg b l ms) (ht : exec (.rcvFrame f) s = .next t)
    (hf : chkValidate s.cfg f = true → Carries s.cfg b l (le32 f 2) f) :
    t.rcv.mode = .ready ∧ ∃ ms', ms = deliveredMessages t.outbox ++ ms' ∧ t.rcv.Streams t.cfg b l ms' := by
  obtain ⟨hwhole, rfl⟩ := exec_rcvFrame_ready hm ht
  have hr := hs.rcv hm
  have hmode := (Rcv.onFrame_keepsInv hs.legal hs.rcvStores hr hwhole).mode
  obtain ⟨hnone, ms', hms, hstream⟩ := h.onFrame hs.legal hs.rcvStores hr hwhole hf
  rw [exec_cfg ht, State.endRcv_rcv, State.endRcv_outbox, hnone]
  refine ⟨hmode.trans hm, ms', ?_, hstream⟩
  rw [hms, Option.toList_none, List.map_nil, List.append_nil]

/-- The frame waited for, with nothing held, is taken alone. -/
theorem exec_rcvFrame_carried {s : State} {b : Nat} {l : List (List Byte)} {ms : List (Word × List Byte)} {f : Frame}
    (hs : s.Inv) (hm : s.rcv.mode = .ready) (hfree : ∀ k, Store.read false s.rcv.occ k = false)
    (h : s.rcv.Streams s.cfg b l ms) (hfits : ∀ p ∈ l, p.length ≤ s.cfg.maxPayload) (hnum : s.rcv.expected ≠ noneYet)
    (hf : Carries s.cfg b l s.rcv.expected f) :
    ∃ t ms', exec (.rcvFrame f) s = .next t ∧ TookOne s t f ∧ ms = deliveredMessages t.outbox ++ ms' ∧
      t.rcv.Streams t.cfg b l ms' := by
  obtain ⟨hok, -⟩ := h.consume hs.legal hs.rcvStores.asmCanonical hf ⟨rfl, rfl, rfl, rfl⟩
  have hcarry := hf
  obtain ⟨-, p, hp, rfl⟩ := hf
  have hseq := dataFrame_seq s.cfg s.rcv.expected p
  have hwhole := length_dataFrame hs.legal s.rcv.expected (hfits p (List.mem_of_getElem? hp))
  obtain ⟨t, ht, hone, -⟩ :=
    exec_rcvFrame_single hs hm ⟨hwhole, chkValidate_frmData _ _ _ _, hseq, hnum⟩ (hfree _) hok
  obtain ⟨-, ms', hms, hstream⟩ := exec_rcvFrame_streams hs hm h ht fun _ => hseq.symm ▸ hcarry
  exact ⟨t, ms', ht, hone, hms, hstream⟩

theorem add_one_add_ofNat (w : Word) (n : Nat) : w + 1 + BitVec.ofNat 32 n = w + BitVec.ofNat 32 (n + 1) := by
  rw [BitVec.add_assoc, BitVec.add_comm 1, BitVec.ofNat_add]
  rfl

/-- The frames of the sequence, relayed in order from the one waited for on, are all taken. -/
theorem relay_carried {b : Nat} {l : List (List Byte)} (hend : b + l.length ≤ 0xFFFFFFFF) (fs : List Frame) {s : State}
    {ms : List (Word × List Byte)} (hs : s.Inv) (hm : s.rcv.mode = .ready)
    (hfree : ∀ k, Store.read false s.rcv.occ k = false) (h : s.rcv.Streams s.cfg b l ms)
    (hfits : ∀ p ∈ l, p.length ≤ s.cfg.maxPayload)
    (hfs : ∀ k f, fs[k]? = some f → Carries s.cfg b l (s.rcv.expected + BitVec.ofNat 32 k) f) :
    ∃ u out ms', relay fs s = some (u, out) ∧ ms = deliveredMessages out ++ ms' ∧ u.rcv.mode = .ready ∧
      u.rcv.Streams u.cfg b l ms' ∧ u.rcv.expected = s.rcv.expected + BitVec.ofNat 32 fs.length ∧ u.snd = s.snd := by
  induction fs generalizing s ms with
  | nil => exact ⟨s, [], ms, rfl, rfl, hm, h, (BitVec.add_zero _).symm, rfl⟩
  | cons f fs ih =>
    have hf : Carries s.cfg b l s.rcv.expected f := by
      have := hfs 0 f rfl
      rwa [show s.rcv.expected + BitVec.ofNat 32 0 = s.rcv.expected from BitVec.add_zero _] at this
    have hnum : s.rcv.expected ≠ noneYet := fun he => by
      obtain ⟨hb, p, hp, -⟩ := hf
      have hlt := (List.getElem?_eq_some_iff.1 hp).1
      have : s.rcv.expected.toNat = 0xFFFFFFFF := by rw [he]; rfl
      omega
    obtain ⟨t, ms₁, ht, hone, rfl, hstream⟩ := exec_rcvFrame_carried hs hm hfree h hfits hnum hf
    have hcfg := exec_cfg ht
    obtain ⟨u, out, ms₂, hrelay, rfl, hu, hustream, hexp, hsnd⟩ := ih (exec_inv hs ht) hone.mode
      (fun k => (hone.occ k).trans (hfree k)) hstream (hcfg ▸ hfits) fun k g hg => by
        have := hfs (k + 1) g hg
        rwa [hcfg, hone.expected, add_one_add_ofNat]
    refine ⟨u, t.outbox ++ out, ms₂, ?_, by rw [deliveredMessages_append, List.append_assoc], hu, hustream, ?_,
      hsnd.trans hone.snd⟩
    · rw [relay, issue_eq_some.2 ht, Option.bind_some, hrelay, Option.map_some]
    · rw [hexp, hone.expected, List.length_cons, add_one_add_ofNat]

theorem sentFrames_map_sendFrame {α : Type} (g : α → Frame) (xs : List α) :
    sentFrames (xs.map fun x => .sendFrame (g x)) = xs.map g := by
  simp [sentFrames, List.filterMap_map]

/-- The frames a message is sent in carry its payloads, in order. -/
theorem carries_fragment {c : Config} {b len : Word} {k : Nat} (data : List Byte) (hk : k < fragmentCount c len.toNat)
    (hnum : b.toNat + fragmentCount c len.toNat ≤ 0xFFFFFFFF) :
    Carries c b.toNat (fragmentsOf c (len, data)) (b + BitVec.ofNat 32 k)
      (dataFrame c (b + BitVec.ofNat 32 k) (fragmentPayload c len data k)) := by
  have hseq : (b + BitVec.ofNat 32 k).toNat = b.toNat + k := toNat_add_ofNat (by omega)
  rw [Carries, hseq, Nat.add_sub_cancel_left, fragmentsOf, List.getElem?_map, List.getElem?_range hk]
  exact ⟨Nat.le_add_right _ _, _, rfl, rfl⟩

/-- Settles O59: the sender's frames carry the message's payloads, the receiver takes them in order, and with none left
the message has been delivered. -/
theorem cutMessageIsReassembled : Obligations.CutMessageIsReassembled := by
  intro s len data hs hm hstop hq hrm hact hocc hexp hdata hlen hfits hnum
  obtain ⟨t, ht, hout, -, hsnd⟩ := idleSenderSegmentsTheMessage s len data hs hm hstop hq hdata hlen hfits hnum
  have hrcv := exec_snd_rcv rfl ht
  have hcfg := exec_cfg ht
  have hcount := length_fragmentsOf s.cfg (len, data)
  have hsent : sentFrames t.outbox = (List.range (fragmentCount s.cfg len.toNat)).map fun k =>
      dataFrame s.cfg (s.snd.nextSeq + BitVec.ofNat 32 k) (fragmentPayload s.cfg len data k) := by
    rw [hout]
    exact sentFrames_map_sendFrame _ _
  have hstream : t.rcv.Streams t.cfg s.snd.nextSeq.toNat (fragmentsOf s.cfg (len, data)) [(len, data)] := by
    rw [hrcv, hcfg]
    refine ⟨hexp ▸ le_rfl, fun m hm => List.mem_singleton.1 hm ▸ ⟨hdata, hlen⟩, ?_, fun i hi => ?_⟩
    · rw [hexp, Nat.sub_self, List.drop_zero, ← List.flatMap_singleton (fragmentsOf s.cfg)]
      exact .idle _ hact
    · rw [hocc] at hi
      cases hi
  obtain ⟨u, out, ms, hrelay, hms, hum, hustream, huexp, husnd⟩ := relay_carried (by rwa [hcount])
    (sentFrames t.outbox) (exec_inv hs ht) (hrcv ▸ hrm) (fun k => by rw [hrcv, hocc]; rfl) hstream
    (fun p hp => by
      obtain ⟨k, -, rfl⟩ := List.mem_map.1 hp
      exact hcfg ▸ length_fragmentPayload_le hs.legal _ _ _)
    (fun k f hf => by
      rw [hsent, List.getElem?_map, Option.map_eq_some_iff] at hf
      obtain ⟨j, hj, rfl⟩ := hf
      obtain ⟨hk, rfl⟩ := List.getElem?_eq_some_iff.1 hj
      rw [hrcv, hexp, hcfg, List.getElem_range]
      exact carries_fragment data (by rwa [List.length_range] at hk) hnum)
  have hend : u.rcv.expected = t.snd.nextSeq := by
    rw [huexp, hsnd, hsent, hrcv, hexp, List.length_map, List.length_range]
  have hrest := hustream.rest
  rw [hend, hsnd, drop_fragmentsOf_end] at hrest
  · obtain ⟨rfl, hidle⟩ := hrest.eq_nil
    exact ⟨t, u, out, ht, hrelay, by rw [hms, List.append_nil], hum, hidle, hend, husnd⟩
  · show fragmentCount s.cfg len.toNat ≤ (s.snd.nextSeq + BitVec.ofNat 32 _).toNat - _
    rw [toNat_add_ofNat hnum, Nat.add_sub_cancel_left]

end Sys2Proof.Machine
end

section
/-! In-order, exactly-once delivery over a bad channel (43_receiver.md R218): without a fault every frame there is
carries its payload of the messages enqueued, and the receiver takes the payloads one by one. -/

namespace Sys2Proof.Machine

/-! ### SND's side -/

/-- What a procedure of SND that raises nothing leaves of a sequence of payloads: the sequence, each frame it sends
carrying its payload. -/
structure Snd.KeepsStream (c : Config) (b : Nat) (l : List (List Byte)) (p : Progress Snd) : Prop where
  unit : p.unit.Streams c b l
  sent : ∀ f, Action.sendFrame f ∈ p.out → ∃ s, Carries c b l s f

/-- A procedure that starts the timer first, and may stop it last, sends the same frames. -/
theorem Snd.KeepsStream.timed {c : Config} {b : Nat} {l : List (List Byte)} {p q : Progress Snd}
    (h : Snd.KeepsStream c b l p) (hunit : q.unit.Streams c b l)
    (hout : ∀ f, Action.sendFrame f ∈ q.out → Action.sendFrame f ∈ p.out) : Snd.KeepsStream c b l q :=
  ⟨hunit, fun f hf => h.sent f (hout f hf)⟩

/-- The sequence depends on the queue, the cursor and the window alone. -/
theorem Snd.Streams.congr {c : Config} {b : Nat} {l : List (List Byte)} {u v : Snd} (h : u.Streams c b l)
    (hack : v.ackExpected = u.ackExpected) (hnext : v.nextSeq = u.nextSeq) (hq : v.q = u.q) (hcur : v.curOff = u.curOff)
    (hwin : v.win = u.win) : v.Streams c b l where
  start := hack ▸ h.start
  within := hnext ▸ h.within
  rest := by rw [hq, hcur, hnext]; exact h.rest
  window := fun s hge hlt => by
    rw [Snd.winAt, hwin]
    exact h.window s (hack ▸ hge) (hnext ▸ hlt)

theorem Snd.Streams.windowFill {c : Config} (hc : c.legal = true) {b : Nat} {l : List (List Byte)} {u : Snd}
    (h : u.Streams c b l) (hu : u.FillInv c) (hack : u.ackExpected.toNat ≤ u.nextToTransmit.toNat)
    (hnone : (u.windowFill c).raised = none) : Snd.KeepsStream c b l (u.windowFill c) := by
  obtain ⟨n, v, hcuts, ⟨-, e⟩ | ⟨-, -, -, e⟩⟩ := u.windowFill_ends c
  · obtain ⟨hsame, htransmit⟩ := hcuts.sameOutside
    have hv := h.cuts hc hu hcuts
    rw [e]
    refine ⟨hv.congr rfl rfl rfl rfl rfl, fun f hf => hv.sends ?_ hf⟩
    rw [htransmit, hsame.ackExpected]
    exact hack
  · rw [e] at hnone
    cases hnone

/-- SND.MSG that raises nothing has taken the message into the queue, behind all there is (42_sender.md R172). -/
theorem Snd.Streams.onMessage {c : Config} (hc : c.legal = true) {b : Nat} {l : List (List Byte)} {u : Snd}
    (h : u.Streams c b l) (hst : u.StoreInv c) (hu : u.Inv c) {len : Word} {data : List Byte}
    (hdata : data.length = len.toNat) (hnone : (u.onMessage c len data).raised = none) :
    len.toNat ≤ c.msgMax ∧ (u.onMessage c len data).unit.msgNext = u.msgNext + 1 ∧
      Snd.KeepsStream c b (l ++ fragmentsOf c (len, data)) (u.onMessage c len data) := by
  have henqueue : (u.enqueued len data).Streams c b (l ++ fragmentsOf c (len, data)) :=
    h.enqueue (v := u.enqueued len data) (m := ⟨u.msgNext, len, data⟩) hu.cursorIdle rfl rfl rfl rfl rfl
  rcases u.onMessage_cases c len data with ⟨-, e⟩ | ⟨-, -, e⟩ | ⟨hlen, -, -, e⟩ | ⟨hlen, hfull, hstop, -⟩
  · rw [e] at hnone
    cases hnone
  · rw [e] at hnone
    cases hnone
  · rw [e]
    exact ⟨hlen, rfl, henqueue.congr rfl rfl rfl rfl rfl, nofun⟩
  · have hfill := hu.enqueued hc hst hdata hlen hfull
    rw [Snd.onMessage_of_stopped hlen hfull hstop] at hnone ⊢
    obtain ⟨n, v, hcuts, hend⟩ := (u.enqueued len data).windowFill_ends c
    have hkeeps := henqueue.windowFill hc hfill
      (hu.transmitted ▸ hu.ordered) hnone
    refine ⟨hlen, ?_, hkeeps.timed hkeeps.unit fun f hf => by simpa using hf⟩
    rcases hend with ⟨-, e⟩ | ⟨-, -, -, e⟩ <;> rw [e] <;> exact hcuts.sameOutside.1.msgNext

/-- SND.ACKF that raises nothing keeps the sequence (42_sender.md R173). -/
theorem Snd.Streams.onAck {c : Config} (hc : c.legal = true) {b : Nat} {l : List (List Byte)} {u : Snd}
    (h : u.Streams c b l) (hst : u.StoreInv c) (hu : u.Inv c) {f : Frame}
    (hnone : (u.onAck c f).raised = none) : Snd.KeepsStream c b l (u.onAck c f) := by
  rcases u.ackCondition_cases c f with ⟨-, e⟩ | ⟨-, -, e⟩ | ⟨hv, hin, -⟩
  · rw [Snd.onAck, e]
    exact ⟨h, nofun⟩
  · rw [Snd.onAck, e]
    exact ⟨h, nofun⟩
  · obtain ⟨hge, hlt⟩ := (u.ackInRange_iff _).1 hin
    rw [Snd.onAck_of_in_range hv hge hlt] at hnone ⊢
    have hack : (le32 f 2 + 1).toNat = (le32 f 2).toNat + 1 := by
      have := u.nextSeq.isLt
      have hlt : (le32 f 2).toNat < u.nextSeq.toNat := hlt
      bv_omega
    have hge : u.ackExpected.toNat ≤ (le32 f 2).toNat := hge
    have hstart := h.start
    have hreleased : (u.released (le32 f 2)).Streams c b l :=
      ⟨(show b ≤ (le32 f 2 + 1).toNat by omega), h.within, h.rest, fun s hs => h.window s (by
        have : (le32 f 2 + 1).toNat ≤ s.toNat := hs
        omega)⟩
    have hkeeps := hreleased.windowFill hc (hu.released hst hge hlt) (by
      show (le32 f 2 + 1).toNat ≤ u.nextToTransmit.toNat
      rw [hu.transmitted, hack]
      exact hlt)
    cases hfill : (u.released (le32 f 2)).windowFill c with
    | mk v out x =>
      rw [hfill] at hkeeps
      cases x with
      | some x =>
        rw [Snd.acceptAck_of_raise hfill] at hnone
        cases hnone
      | none =>
        have hkeeps := hkeeps rfl
        rw [Snd.acceptAck_of_windowFill hfill]
        refine hkeeps.timed (hkeeps.unit.congr rfl rfl rfl rfl rfl) fun g hg => ?_
        split at hg <;> simpa using hg

/-- SND.TIMEOUT sends frames of the window again (42_sender.md R174). -/
theorem Snd.Streams.onTimeout {c : Config} {b : Nat} {l : List (List Byte)} {u : Snd} (h : u.Streams c b l)
    (hrun : u.tmrRun = true) : Snd.KeepsStream c b l (u.onTimeout c) := by
  rw [Snd.onTimeout_of_running c hrun]
  refine ⟨h.congr rfl rfl rfl rfl rfl, fun f hf => ?_⟩
  rcases List.mem_cons.1 hf with he | hf
  · cases he
  · exact h.sends le_rfl hf

end Sys2Proof.Machine
end

section
/-! Delivery across the channel (43_receiver.md R218): what every honest move keeps of the sequence of payloads while no
fault is recorded. -/

namespace Sys2Proof.Machine

/-- A fault of SND stays recorded until a lifecycle operation: without one after a step there was none before it
(60_exceptions.md R262). -/
theorem exec_snd_fault_zero {i : Instr} {s t : State} (hi : ownerOf i = some .snd) (hinit : i ≠ .sndInit)
    (hfinal : i ≠ .sndFinal) (h : exec i s = .next t) (hf : t.snd.fault = 0) :
    s.snd.fault = 0 ∧ t.snd.mode = s.snd.mode := by
  rcases exec_snd_modes hi hinit hfinal h with ⟨hmode, hfault⟩ | ⟨-, -, ⟨-, hcode⟩ | ⟨-, hcode⟩⟩
  · exact ⟨hfault.symm.trans hf, hmode⟩
  · rw [hf] at hcode
    exact absurd hcode (by decide)
  · rw [hf] at hcode
    exact absurd hcode (by decide)

/-- Of a READY sender that records no fault, a step is a procedure that raises nothing. -/
theorem exec_snd_unraised {i : Instr} {s t : State} (hi : ownerOf i = some .snd) (hinit : i ≠ .sndInit)
    (hfinal : i ≠ .sndFinal) (hm : s.snd.mode = .ready) (h : exec i s = .next t) (hf : t.snd.fault = 0) :
    ∃ p, Snd.Runs s.cfg s.snd i p ∧ p.raised = none ∧ t.snd = p.unit ∧ t.outbox = p.out := by
  rcases exec_snd_cases hi h with ⟨he, -⟩ | ⟨hhalted, -⟩ | ⟨-, p, hrun, rfl⟩ | ⟨he, -⟩
  · exact absurd he hinit
  · rw [hm] at hhalted
    cases hhalted
  · rw [State.endSnd_snd] at hf
    refine ⟨p, hrun, ?_⟩
    rw [State.endSnd_snd, State.endSnd_outbox]
    cases hr : p.raised with
    | none => exact ⟨rfl, rfl, List.append_nil _⟩
    | some x =>
      rw [hr] at hf
      exact absurd hf x.cause.code_ne_zero
  · exact absurd he hfinal

/-! ### Systems -/

/-- A frame that carries a payload carries its number too. -/
theorem Carries.seq {c : Config} {b : Nat} {l : List (List Byte)} {s : Word} {f : Frame} (h : Carries c b l s f) :
    Carries c b l (le32 f 2) f := by
  obtain ⟨hb, p, hp, rfl⟩ := h
  rw [dataFrame_seq]
  exact ⟨hb, p, hp, rfl⟩

/-- One more message to deliver, behind all there is. -/
theorem Rcv.Streams.append {c : Config} {b : Nat} {l : List (List Byte)} {ms : List (Word × List Byte)} {r : Rcv}
    (h : r.Streams c b l ms) (hle : r.expected.toNat ≤ b + l.length) {m : Word × List Byte}
    (hm : m.2.length = m.1.toNat ∧ m.1.toNat ≤ c.msgMax) : r.Streams c b (l ++ fragmentsOf c m) (ms ++ [m]) where
  start := h.start
  whole := fun m' hm' => (List.mem_append.1 hm').elim (h.whole m') fun he => List.mem_singleton.1 he ▸ hm
  rest := by
    rw [List.drop_append_of_le_length (by omega)]
    exact h.rest.append m
  held := fun i hi => (h.held i hi).append _

/-- The payloads of the messages `sent` outside SND: carried by every frame in flight, and taken in order by a READY
RCV, which has delivered the messages it has taken whole. -/
structure System.Carried (sent : List (Word × List Byte)) (y : System) : Prop where
  rcvReady : y.block.rcv.mode = .ready
  fwd : ∀ f ∈ y.fwd, Carries y.block.cfg 0 (fragments y.block.cfg sent) (le32 f 2) f
  rcv : ∃ ms, sent = y.delivered ++ ms ∧ y.block.rcv.Streams y.block.cfg 0 (fragments y.block.cfg sent) ms

/-- The payloads of the messages `sent` inside and outside a READY SND, which cuts them in order. -/
structure System.Streams (sent : List (Word × List Byte)) (y : System) : Prop extends System.Carried sent y where
  sndReady : y.block.snd.mode = .ready
  snd : y.block.snd.Streams y.block.cfg 0 (fragments y.block.cfg sent)

/-- Frames leave a bag; the record of messages enqueued plays no part. -/
theorem System.Streams.of_subset {sent : List (Word × List Byte)} {y y' : System} (h : y.Streams sent)
    (hblock : y'.block = y.block) (hfwd : y'.fwd ⊆ y.fwd) (hdelivered : y'.delivered = y.delivered) :
    y'.Streams sent where
  sndReady := hblock ▸ h.sndReady
  rcvReady := hblock ▸ h.rcvReady
  snd := hblock ▸ h.snd
  fwd := fun f hf => hblock ▸ h.fwd f (hfwd hf)
  rcv := by rw [hblock, hdelivered]; exact h.rcv

/-- One more message changes nothing of what is in flight and in RCV. -/
theorem System.Streams.append {sent : List (Word × List Byte)} {y : System} (h : y.Streams sent)
    (hle : y.block.rcv.expected.toNat ≤ y.block.snd.nextSeq.toNat) {m : Word × List Byte}
    (hm : m.2.length = m.1.toNat ∧ m.1.toNat ≤ y.block.cfg.msgMax) : y.Carried (sent ++ [m]) := by
  obtain ⟨ms, hms, hr⟩ := h.rcv
  refine ⟨h.rcvReady, fun f hf => ?_, ms ++ [m], by rw [hms, List.append_assoc], ?_⟩ <;> rw [fragments_snoc]
  · exact (h.fwd f hf).append _
  · exact hr.append (hle.trans h.snd.within) hm

/-- A step of SND that records no fault keeps the payloads in place, if its procedure puts the sender's there. -/
theorem System.Carried.sndOp {sent : List (Word × List Byte)} {y : System} {t : State} {i : Instr}
    (h : y.Carried sent) (hm : y.block.snd.mode = .ready) (hi : ownerOf i = some .snd) (hinit : i ≠ .sndInit)
    (hfinal : i ≠ .sndFinal) (ht : exec i y.block = .next t) (hf : t.snd.fault = 0) {p : Progress Snd}
    (hunit : t.snd = p.unit) (hout : t.outbox = p.out)
    (hp : Snd.KeepsStream y.block.cfg 0 (fragments y.block.cfg sent) p) :
    System.Streams sent { y with block := t, fwd := y.fwd ++ sentFrames t.outbox } := by
  have hrcv := exec_snd_rcv hi ht
  have hcfg := exec_cfg ht
  refine ⟨⟨hrcv ▸ h.rcvReady, fun f hf => ?_, ?_⟩, (exec_snd_fault_zero hi hinit hfinal ht hf).2.trans hm, ?_⟩
  · show Carries t.cfg 0 (fragments t.cfg sent) (le32 f 2) f
    rw [hcfg]
    rcases List.mem_append.1 hf with hf | hf
    · exact h.fwd f hf
    · obtain ⟨s, hs⟩ := hp.sent f (hout ▸ mem_sentFrames.1 hf)
      exact hs.seq
  · show ∃ ms, sent = y.delivered ++ ms ∧ t.rcv.Streams t.cfg 0 (fragments t.cfg sent) ms
    rw [hrcv, hcfg]
    exact h.rcv
  · show t.snd.Streams t.cfg 0 (fragments t.cfg sent)
    rw [hunit, hcfg]
    exact hp.unit

/-- RCV.FRAME of a frame in flight, or of one that fails validation, keeps the payloads in place. -/
theorem System.Streams.rcvOp {sent : List (Word × List Byte)} {y y' : System} {f : Frame} (h : y.Streams sent)
    (hs : y.block.Inv)
    (hf : chkValidate y.block.cfg f = true → Carries y.block.cfg 0 (fragments y.block.cfg sent) (le32 f 2) f)
    (hy : y.rcvOp (.rcvFrame f) = some y') :
    y'.Streams sent := by
  obtain ⟨t, ht, rfl⟩ := System.rcvOp_eq_some.1 hy
  obtain ⟨ms, hms, hr⟩ := h.rcv
  obtain ⟨hm, ms', rfl, hr'⟩ := exec_rcvFrame_streams hs h.rcvReady hr ht hf
  have hsnd := exec_rcv_snd rfl ht
  have hcfg := exec_cfg ht
  refine ⟨⟨hm, hcfg ▸ h.fwd, ms', by rw [hms, List.append_assoc], hcfg ▸ hr'⟩, hsnd ▸ h.sndReady, ?_⟩
  show t.snd.Streams t.cfg 0 (fragments t.cfg sent)
  rw [hsnd, hcfg]
  exact h.snd

theorem System.noteMessage_block (s : State) (len : Word) (data : List Byte) (y : System) :
    (y.noteMessage s len data).block = y.block := by
  unfold System.noteMessage
  split <;> rfl

/-- Every honest move outside the lifecycle that records no fault of SND keeps the payloads of the messages enqueued in
place. -/
theorem System.Streams.move {y y' : System} {m : Move} (hagree : y.Agree) (h : y.Streams y.enqueued)
    (hhonest : m.honest y) (hlife : m.lifecycle = false) (hy : y.move m = some y') (hf : y'.block.snd.fault = 0) :
    y'.Streams y'.enqueued := by
  have hs := hagree.block
  have hu := hs.snd h.sndReady
  cases m with
  | sndInit | sndFinal | rcvInit | rcvFinal | hardReset => cases hlife
  | message len data =>
    obtain ⟨y₁, hy₁, rfl⟩ := Option.map_eq_some_iff.1 hy
    obtain ⟨t, ht, rfl⟩ := System.sndOp_eq_some.1 hy₁
    rw [System.noteMessage_block] at hf
    obtain ⟨p, hrun, hnone, hunit, hout⟩ := exec_snd_unraised (i := .sndMsg len data) rfl nofun nofun h.sndReady ht hf
    cases hrun with
    | message hdata =>
      obtain ⟨hlen, hnext, hkeeps⟩ := h.snd.onMessage hs.legal hs.sndStores hu hdata hnone
      have hne : t.snd.msgNext ≠ y.block.snd.msgNext := by
        rw [hunit, hnext]
        bv_omega
      rw [System.noteMessage, if_neg hne]
      exact ((h.append hagree.consumedSent ⟨hdata, hlen⟩).sndOp (i := .sndMsg len data) h.sndReady rfl nofun nofun ht hf hunit hout
        ((fragments_snoc ..).symm ▸ hkeeps)).of_subset rfl (List.Subset.refl _) rfl
  | expiry =>
    obtain ⟨t, ht, rfl⟩ := System.sndOp_eq_some.1 hy
    obtain ⟨p, hrun, -, hunit, hout⟩ := exec_snd_unraised (i := .sndTimeout) rfl nofun nofun h.sndReady ht hf
    cases hrun with
    | timeout hrun =>
      exact h.toCarried.sndOp (i := .sndTimeout) h.sndReady rfl nofun nofun ht hf hunit hout (h.snd.onTimeout hrun)
  | deliverBwd k keep arrives =>
    obtain ⟨-, hy⟩ := Option.ite_none_right_eq_some.1 hy
    obtain ⟨t, ht, rfl⟩ := System.sndOp_eq_some.1 hy
    obtain ⟨p, hrun, hnone, hunit, hout⟩ := exec_snd_unraised (i := .sndAckf arrives) rfl nofun nofun h.sndReady ht hf
    cases hrun with
    | ack _ =>
      exact (h.toCarried.sndOp (i := .sndAckf arrives) h.sndReady rfl nofun nofun ht hf hunit hout
        (h.snd.onAck hs.legal hs.sndStores hu hnone)).of_subset rfl (List.Subset.refl _) rfl
  | deliverFwd k keep arrives =>
    obtain ⟨-, hy⟩ := Option.ite_none_right_eq_some.1 hy
    have hsub := h.of_subset (y' := { y with fwd := if keep then y.fwd else y.fwd.eraseIdx k }) rfl
      (ite_keep_subset keep k) rfl
    have hsame : y'.enqueued = y.enqueued := by
      obtain ⟨t, -, rfl⟩ := System.rcvOp_eq_some.1 hy
      rfl
    rw [hsame]
    refine hsub.rcvOp hs (fun hv => ?_) hy
    rcases hhonest with hin | hbad
    · exact h.fwd _ (List.mem_of_getElem? hin)
    · have hv : chkValidate y.block.cfg arrives = true := hv
      rw [hbad] at hv
      cases hv
  | dropFwd k =>
    obtain ⟨-, hy⟩ := Option.ite_none_right_eq_some.1 hy
    cases hy
    exact h.of_subset rfl List.eraseIdx_subset rfl
  | dropBwd k =>
    obtain ⟨-, hy⟩ := Option.ite_none_right_eq_some.1 hy
    cases hy
    exact h.of_subset rfl (List.Subset.refl _) rfl

/-- A fault of SND stays recorded over moves outside the lifecycle. -/
theorem System.move_fault {y y' : System} {m : Move} (hlife : m.lifecycle = false) (hy : y.move m = some y')
    (hf : y'.block.snd.fault = 0) : y.block.snd.fault = 0 := by
  cases m with
  | sndInit | sndFinal | rcvInit | rcvFinal | hardReset => cases hlife
  | message len data =>
    obtain ⟨y₁, hy₁, rfl⟩ := Option.map_eq_some_iff.1 hy
    obtain ⟨t, ht, rfl⟩ := System.sndOp_eq_some.1 hy₁
    rw [System.noteMessage_block] at hf
    exact (exec_snd_fault_zero (i := .sndMsg len data) rfl nofun nofun ht hf).1
  | expiry =>
    obtain ⟨t, ht, rfl⟩ := System.sndOp_eq_some.1 hy
    exact (exec_snd_fault_zero (i := .sndTimeout) rfl nofun nofun ht hf).1
  | deliverBwd k keep arrives =>
    obtain ⟨t, ht, rfl⟩ := System.sndOp_eq_some.1 (Option.ite_none_right_eq_some.1 hy).2
    exact (exec_snd_fault_zero (i := .sndAckf arrives) rfl nofun nofun ht hf).1
  | deliverFwd k keep arrives =>
    obtain ⟨t, ht, rfl⟩ := System.rcvOp_eq_some.1 (Option.ite_none_right_eq_some.1 hy).2
    exact exec_rcv_snd rfl ht ▸ hf
  | dropFwd k | dropBwd k =>
    cases (Option.ite_none_right_eq_some.1 hy).2
    exact hf

theorem System.moves_fault {ms : List Move} {y y' : System} (hhonest : System.honestMoves ms y)
    (hy : System.moves ms y = some y') (hf : y'.block.snd.fault = 0) : y.block.snd.fault = 0 := by
  induction ms generalizing y with
  | nil =>
    cases hy
    exact hf
  | cons m ms ih =>
    obtain ⟨-, hlife, hrest⟩ := hhonest
    obtain ⟨y₁, hy₁, hy⟩ := Option.bind_eq_some_iff.1 hy
    exact System.move_fault hlife hy₁ (ih (hrest y₁ hy₁) hy)

/-- A run of honest moves that records no fault of SND keeps the payloads in place. -/
theorem System.Streams.moves {ms : List Move} {y y' : System} (hagree : y.Agree) (h : y.Streams y.enqueued)
    (hhonest : System.honestMoves ms y) (hy : System.moves ms y = some y') (hf : y'.block.snd.fault = 0) :
    y'.Streams y'.enqueued := by
  induction ms generalizing y with
  | nil =>
    cases hy
    exact h
  | cons m ms ih =>
    obtain ⟨hm, hlife, hrest⟩ := hhonest
    obtain ⟨y₁, hy₁, hy⟩ := Option.bind_eq_some_iff.1 hy
    have hhonest₁ := hrest y₁ hy₁
    have hf₁ := System.moves_fault hhonest₁ hy hf
    exact ih (windowAgreementKeptByEveryMove y y₁ m hagree hm hlife hy₁) (h.move hagree hm hlife hy₁ hf₁) hhonest₁ hy

/-- Right after both INITs there is no message, no frame and nothing held. -/
theorem System.Started.streams {y : System} (h : y.Started) : y.Streams y.enqueued := by
  obtain ⟨-, hum, hrm⟩ := startedSystemAgrees y h
  obtain ⟨hu, hr⟩ := h.units
  rw [h.nothingEnqueued]
  refine ⟨⟨hrm, fun f hf => ?_, [], by rw [h.nothingDelivered]; rfl, ?_⟩, hum, ?_⟩
  · rw [h.fwdEmpty] at hf
    cases hf
  · rw [hr]
    exact ⟨Nat.zero_le _, nofun, .idle [] rfl, nofun⟩
  · rw [hu]
    exact ⟨Nat.zero_le _, Nat.zero_le _, .done _, fun s _ hlt => absurd hlt (Nat.not_lt_zero _)⟩

/-- Settles O60: what is delivered is what RCV has taken whole of the messages enqueued, in their order. -/
theorem deliveredIsPrefixOfEnqueued : Obligations.DeliveredIsPrefixOfEnqueued := by
  intro y y' ms hstart hhonest hy hsafe
  have hagree := (startedSystemAgrees y hstart).1
  obtain ⟨rest, hrest, -⟩ := (hstart.streams.moves hagree hhonest hy hsafe.1).rcv
  exact ⟨rest, hrest.symm⟩

end Sys2Proof.Machine
end
